-- ==== Sys2Proof/Word.lean ====
section
/-! DEFINITION. Words, bytes, and the frames that travel on the command port (00_scope.md R10,
30_encoding.md R80, R81; 60_exceptions.md R183). -/

namespace Sys2Proof

/-- A 32-bit word, bit 31 the most significant (R10). -/
abbrev Word := BitVec 32

/-- One byte of `storage` (R21). -/
abbrev Byte := BitVec 8

/-- A command frame (R81): the command word `CW` and the payload words. A frame has at least its
command word, and the port delimits it, so the number of payload words is known apart from `CW`. -/
structure Frame where
  cw : Word
  payload : List Word
deriving DecidableEq, Repr

/-- The fatal causes (R183). Their numbers are `Cause.code`, in Decode.lean. -/
inductive Cause where
  | badCount
  | nullBuf
  | uninit
  | illegalCmd
  | badFrame
deriving DecidableEq, Repr

/-- What a command is answered (R13, R80): success with its data words, InsufficientData, or a fatal
precondition violation with an 8-bit code (the cause, or the stored `fcause`, R187). -/
inductive Response where
  | ok (data : List Word)
  | errNoData
  | fatal (code : Byte)
deriving DecidableEq, Repr

end Sys2Proof
end

