-- ==== Sys2Proof/Config.lean ====
section
/-! DEFINITION. The implementation parameters (00_scope.md R8) and the free values: what the spec
leaves to the implementation or to the environment, as constants with no body. -/

namespace Sys2Proof

/-- The order in which the bytes of a word are laid in `storage` (R8, R55). -/
inductive ByteOrder where
  | little
  | big
deriving DecidableEq, Repr, Inhabited

/-- The unit of the client's "count" read (R8, R168). -/
inductive CountUnit where
  | bytes
  | words
deriving DecidableEq, Repr, Inhabited

/-- The parameters one RingLog instance is built with (R8). `magicHigh` is the upper half of
`MAGIC`, whose lower half is 0 by R8's constraint. -/
structure Params where
  /-- `N`, the capacity of `storage` in bytes. -/
  capacity : Nat
  capacity_pos : 0 < capacity
  capacity_lt : capacity < 2147483648
  byteOrder : ByteOrder
  magicHigh : BitVec 16
  maxReportWords : Nat
  countUnit : CountUnit
  /-- The size of `Req`, the finite nonempty set of requesters: its members are the places
  `0 .. requesterCount - 1` (R199; DEDUCED, log entry 5). -/
  requesterCount : Nat
  requesterCount_pos : 0 < requesterCount
deriving DecidableEq, Repr

/-- `WordAligned`: the capacity is a multiple of 4 (R9). -/
abbrev Params.WordAligned (p : Params) : Prop := p.capacity % 4 = 0

/-- An instance with the spec's defaults for the parameters that have one: little-endian storage,
1024 report words, the count in bytes (R8; D14, D20, D21), and with the two requesters of R8's intended
deployment. -/
def Params.withDefaults (n : Nat) (pos : 0 < n) (lt : n < 2147483648) (magicHigh : BitVec 16) :
    Params where
  capacity := n
  capacity_pos := pos
  capacity_lt := lt
  byteOrder := .little
  magicHigh := magicHigh
  maxReportWords := 1024
  countUnit := .bytes
  requesterCount := 2
  requesterCount_pos := Nat.succ_pos 1

/-- OPEN (R8, D12): the capacity of the instance State.reset speaks of, less 1. -/
opaque Config.capacityLessOne : Fin 2147483647

/-- OPEN (R8, R55, D14, U4): the platform's native byte order. -/
opaque Config.byteOrder : ByteOrder

/-- OPEN (R8, D19, U14): the upper half of `MAGIC`. -/
opaque Config.magicHigh : BitVec 16

/-- OPEN (R8, R167, D20, U14): the fixed maximum of one "frame" read. -/
opaque Config.maxReportWords : Nat

/-- OPEN (R8, R168, D21, U14): the unit of the "count" read. -/
opaque Config.countUnit : CountUnit

/-- OPEN (R8, R60, D2): the size of `Req`, less 1. -/
opaque Config.requestersLessOne : Nat

/-- FREE VALUE (R27, R38, D16, U1): what the byte of `storage` at an offset holds while it is stale. The
first argument numbers the draws: there is a new one each time that bytes become stale. -/
opaque Config.staleByte : Nat → Nat → Byte

/-- FREE VALUE (R62, D3, U6): whose turn it is, where the environment's schedule does not say. -/
opaque Config.turnPick : Nat → Nat

/-- FREE VALUE (R166, D24, U15): the millisecond time read at one TRACKING. -/
opaque Config.nowMs : Nat → Word

/-- The parameters of the instance State.reset speaks of: every one of them left open. -/
def Config.params : Params where
  capacity := Config.capacityLessOne.val + 1
  capacity_pos := Nat.succ_pos _
  capacity_lt := Nat.succ_lt_succ Config.capacityLessOne.isLt
  byteOrder := Config.byteOrder
  magicHigh := Config.magicHigh
  maxReportWords := Config.maxReportWords
  countUnit := Config.countUnit
  requesterCount := Config.requestersLessOne + 1
  requesterCount_pos := Nat.succ_pos _

end Sys2Proof
end

