-- ==== Sys2Proof/Syntax.lean ====
section
/-! DEFINITION. The command set (30_encoding.md R80, R84): one constructor per row of
spec/opcode_table.json. -/

namespace Sys2Proof

/-- The five commands as abstract data (R80). `wc` is the signed word count; `src` is `none` for the
source's "null source" (a frame without payload, R83). -/
inductive Instr where
  | init
  | put (src : Option (List Word)) (wc : Int)
  | get (wc : Int)
  | occ
  | deinit
deriving DecidableEq, Repr

end Sys2Proof
end

