-- ==== Sys2Proof/WellFormed.lean ====
section
/-! DEFINITION. Which commands a frame can carry (30_encoding.md R82, R83). -/

namespace Sys2Proof

/-- The word counts the 24-bit field `WC` can carry, `-2^23 .. 2^23 - 1`: `MAX_WC` is the largest
(R8, R82, R83, U12). -/
def wcExpressible (wc : Int) : Bool :=
  decide (-8388608 ≤ wc) && decide (wc ≤ 8388607)

/-- A present source has at least one word: a frame with no payload is the absent source (R83). -/
def srcExpressible (src : Option (List Word)) : Bool :=
  match src with
  | none => true
  | some ws => !ws.isEmpty

/-- A command that some frame carries. -/
def Instr.wf (i : Instr) : Bool :=
  match i with
  | .init => true
  | .put src wc => srcExpressible src && wcExpressible wc
  | .get wc => wcExpressible wc
  | .occ => true
  | .deinit => true

end Sys2Proof
end

