-- ==== Sys2Proof/Decode.lean ====
section
/-! DEFINITION. The decoder of command frames and the encoder (30_encoding.md R82 to R85, R91, R93),
the encoding of responses (R90), and the host's view of the decoder on an opcode-table word. -/

namespace Sys2Proof

/-- The numeric cause codes (60_exceptions.md R183). -/
def Cause.code (c : Cause) : Byte :=
  match c with
  | .badCount => 1#8
  | .nullBuf => 2#8
  | .uninit => 3#8
  | .illegalCmd => 4#8
  | .badFrame => 5#8

/-- `OP = CW[31:28]` (R82). -/
def opField (cw : Word) : BitVec 4 := cw.extractLsb' 28 4

/-- `RSV = CW[27:24]` (R82). -/
def rsvField (cw : Word) : BitVec 4 := cw.extractLsb' 24 4

/-- `WC = CW[23:0]` (R82). -/
def wcField (cw : Word) : BitVec 24 := cw.extractLsb' 0 24

/-- `wc = sext_24(CW[23:0])` (R83). -/
def wcOf (cw : Word) : Int := (wcField cw).toInt

/-- The source of a PUT: absent when the frame has no payload (R83). -/
def srcOf (payload : List Word) : Option (List Word) :=
  if payload.isEmpty then none else some payload

/-- The total decoder of R91, its checks in R91's order. A rejection carries the cause that
executing the frame raises. -/
def decode (f : Frame) : Except Cause Instr :=
  if rsvField f.cw ≠ 0#4 then .error .illegalCmd
  else if opField f.cw = 0x0#4 ∨ 0x6#4 ≤ opField f.cw then .error .illegalCmd
  else if (opField f.cw = 0x1#4 ∨ opField f.cw = 0x4#4 ∨ opField f.cw = 0x5#4)
      ∧ wcField f.cw ≠ 0#24 then .error .illegalCmd
  else if opField f.cw = 0x2#4 then .ok (.put (srcOf f.payload) (wcOf f.cw))
  else if f.payload ≠ [] then .error .badFrame
  else if opField f.cw = 0x1#4 then .ok .init
  else if opField f.cw = 0x3#4 then .ok (.get (wcOf f.cw))
  else if opField f.cw = 0x4#4 then .ok .occ
  else .ok .deinit

/-- A command word from its opcode and count, the reserved bits 0 (R82). -/
def commandWord (op : BitVec 4) (wc : BitVec 24) : Word := op ++ 0#4 ++ wc

/-- The frame of each command (R85). -/
def encode (i : Instr) : Frame :=
  match i with
  | .init => { cw := commandWord 0x1#4 0#24, payload := [] }
  | .put src wc => { cw := commandWord 0x2#4 (BitVec.ofInt 24 wc), payload := src.getD [] }
  | .get wc => { cw := commandWord 0x3#4 (BitVec.ofInt 24 wc), payload := [] }
  | .occ => { cw := commandWord 0x4#4 0#24, payload := [] }
  | .deinit => { cw := commandWord 0x5#4 0#24, payload := [] }

/-- The frame `PUT w0, ..., w(k-1)` of R95: the words and their own number. -/
def putFrame (words : List Word) : Frame := encode (.put (some words) words.length)

/-- The response word `RW = RC[31:28] 0[27:8] CAUSE[7:0]` followed by the data words (R90). -/
def Response.words (r : Response) : List Word :=
  match r with
  | .ok data => (0x0#4 ++ 0#20 ++ 0#8) :: data
  | .errNoData => [0x1#4 ++ 0#20 ++ 0#8]
  | .fatal code => [0xF#4 ++ 0#20 ++ code]

/-- How many payload words a well-formed frame with this command word has: `wc` for PUT, none
otherwise (R85). -/
def payloadLength (cw : Word) : Nat :=
  if opField cw = 0x2#4 then (wcOf cw).toNat else 0

/-- Payload words `1 .. k` of an instruction whose bits are `w`, word `n` first. -/
def tablePayload (w n : Nat) : Nat → List Word
  | 0 => []
  | k + 1 => BitVec.ofNat 32 (w >>> (32 * n)) :: tablePayload w (n + 1) k

/-- The frame whose bits are `w`, numbered as spec/opcode_table.json numbers them: the first word is
the command word, and each later word counts on from it. The bits above `nbits` are 0, and the frame
is as long as R85 says, or as the `nbits` bits say where they are more words. -/
def tableFrame (nbits w : Nat) : Frame :=
  let bits := w % 2 ^ nbits
  let cw : Word := BitVec.ofNat 32 bits
  { cw := cw, payload := tablePayload bits 1 (max (payloadLength cw) ((nbits + 31) / 32 - 1)) }

/-- What the decoder reads from an instruction whose bits are `w`. -/
def decodeTableWord (nbits w : Nat) : Option Instr :=
  match decode (tableFrame nbits w) with
  | .ok i => some i
  | .error _ => none

end Sys2Proof
end

