-- ==== Sys2Proof/Machine/State.lean ====
section
/-! DEFINITION. The state of the machine: the seven elements of 10_state.md R20, the response port,
the requesters (20_memory.md R60, R61) and the environment's inputs; the ways a step can stop; the
state after reset (R38). -/

namespace Sys2Proof.Machine

/-- Why the machine stops with a fault. -/
inductive Fault where
  /-- Raised by PUT's and GET's byte accesses at an offset outside `0 .. N-1`, which R11 forbids and
  R26 rules out in every state a command starts from. SAFE: the model stops. -/
  | storageRange
deriving DecidableEq, Repr

/-- Why the machine refuses an instruction. -/
inductive Refusal where
  /-- An instruction that exec does not model yet. SAFE: the model stops. No arm answers it. -/
  | notModelled (mnemonic : String)
  /-- A PUT or GET whose word count fits no command frame (U12: a model working above the frame
  level must refuse larger counts). Raised by execPut and execGet; no decoded frame reaches it.
  SAFE: the model stops. -/
  | countNotExpressible
deriving DecidableEq, Repr

/-- `storage`: the bytes written since reset as (offset, byte) pairs, offsets strictly rising
(`Memory.wf`). Only PUT writes here: GET does not modify it (R39, R140). What a byte outside the window
holds is no matter of this list but a free value (R27, `State.byteAt`). -/
abbrev Memory := List Host.Cell

/-- What a requester has to do: a plain command frame, or a client pseudo-operation (30_encoding.md
R96). -/
inductive Job where
  | command (f : Frame)
  | recordEvent (status nowMs : Word)
  | tracking (status : Word)
  | drainReport (maxWords : Int)
  | frameRead
  | countRead
deriving DecidableEq, Repr

/-- A job in progress: which command it issues next, or is waiting for (44_event_encoder.md R162,
R164, R168). `asFrame` marks a DRAIN_REPORT run by FRAME_READ, which returns the string only. -/
inductive Task where
  | command (f : Frame)
  | eventTime (ts status : Word)
  | eventStatus (status : Word)
  | drainCount (maxWords : Int) (asFrame : Bool)
  | drainWords (left : Nat) (text : List Char) (drained : Nat) (asFrame : Bool)
  | count
deriving DecidableEq, Repr

/-- What a finished pseudo-operation returned to its caller (R164, R167, R168). -/
inductive ClientResult where
  | report (text : List Char) (drained : Nat)
  | frameText (text : List Char)
  | countText (text : List Char)
  /-- A FATAL answer ended a read that needs a value the answer does not carry. -/
  | aborted (code : Byte)
deriving DecidableEq, Repr

/-- One requester (20_memory.md R60, R61). Its variables are its own, not the block's (R33). -/
structure Requester where
  /-- The command frame issued and not yet answered: at most one (R61). -/
  port : Option Frame
  /-- The job in progress. -/
  task : Option Task
  /-- The jobs still to start, in issue order: finitely many, and no step adds one. Whether a requester's
  supply of commands is bounded the spec leaves open (R65, U7; DESIGN CHOICE, log entry 25). -/
  work : List Job
  /-- Every response received, oldest first. -/
  received : List Response
  /-- The results of its finished pseudo-operations, oldest first. -/
  results : List ClientResult
deriving DecidableEq, Repr

/-- A requester with nothing to do. -/
def Requester.idle : Requester :=
  { port := none, task := none, work := [], received := [], results := [] }

/-- What the environment decides next: whose turn it is among the requesters that can move (R62), given
by the requester's place, or a hardware reset between commands (70_reset_and_hazards.md R210). -/
inductive Event where
  | turn (place : Nat)
  | reset
deriving DecidableEq, Repr

/-- The state. -/
structure State where
  /-- The parameters of the instance (R8): no step changes them (DESIGN CHOICE, log entry 1). -/
  params : Params
  /-- `storage` (R21). -/
  storage : Memory
  /-- `count`, the bytes in the valid window (R22). -/
  count : BitVec 32
  /-- `in_index`, the write pointer (R23). -/
  inIndex : BitVec 32
  /-- `out_index`, the read pointer (R24). -/
  outIndex : BitVec 32
  /-- `ready`: false Uninitialized, true Ready (R28). -/
  ready : Bool
  /-- `fault`, sticky (R30). -/
  fault : Bool
  /-- `fcause`, the code of the first fatal cause (R30). -/
  fcause : BitVec 8
  /-- How often bytes of storage have become stale so far, by a hardware reset or by a GET: which free
  contents the stale bytes have (R27; DESIGN CHOICE, log entry 24). -/
  epoch : Nat
  /-- The response frame of the command executed last (R90; DESIGN CHOICE, log entry 7). -/
  response : Option Response
  /-- The requesters (R60), one for each place of `Req` (`State.Inv`). -/
  requesters : List Requester
  /-- The environment's choices to come (DESIGN CHOICE, log entry 4). -/
  schedule : List Event
  /-- The readings of the time source to come (R166; DESIGN CHOICE, log entry 14). -/
  times : List Word
  /-- The number of free values taken so far (DESIGN CHOICE, log entry 24). -/
  draws : Nat
deriving DecidableEq, Repr

/-- The machine right after hardware reset (R38) for an instance with parameters `p`. The spec gives
`count`, `in_index` and `out_index` no value here: 0 is the model's (DESIGN CHOICE, log entry 2).
Storage lists nothing. Every requester of `Req` has nothing to do: none has sent a frame (R199, R211;
DEDUCED, log entry 5). -/
def State.resetOf (p : Params) : State where
  params := p
  storage := []
  count := 0#32
  inIndex := 0#32
  outIndex := 0#32
  ready := false
  fault := false
  fcause := 0#8
  epoch := 0
  response := none
  requesters := List.replicate p.requesterCount Requester.idle
  schedule := []
  times := []
  draws := 0

/-- The machine right after reset, every parameter left open. -/
def State.reset : State := State.resetOf Config.params

end Sys2Proof.Machine
end

