-- ==== Sys2Proof/Machine/Flags.lean ====
section
/-! DEFINITION. The conditions on `count`: empty and full, which the block does not store
(10_state.md R31), and the overflow test of PUT (41_put.md R124). -/

namespace Sys2Proof.Machine

/-- `empty(s)` (R31). -/
def State.isEmpty (s : State) : Bool := s.count.toNat == 0

/-- `full(s)` (R31). -/
def State.isFull (s : State) : Bool := s.count.toNat == s.params.capacity

/-- Overflow: strictly more than `N` bytes (R124). -/
def overflows (n count b : Nat) : Bool := decide (n < count + b)

/-- `e`, the number of bytes an overflowing PUT evicts (R124). -/
def evicted (n count b : Nat) : Nat := count + b - n

/-- `count` after a PUT of `b` bytes: clamped to `N` (R123 steps 2 and 3). -/
def putCount (n count b : Nat) : Nat := if overflows n count b then n else count + b

/-- `out_index` after a PUT of `b` bytes: advanced modulo `N` on overflow, else unchanged (R124,
R127). -/
def putOut (n count out b : Nat) : Nat :=
  if overflows n count b then (out + evicted n count b) % n else out

end Sys2Proof.Machine
end

