-- ==== Sys2Proof/Machine/Operands.lean ====
section
/-! DEFINITION. The helper functions of 00_scope.md R12 and the operands of PUT and GET: byte counts,
wraparound, the bytes of a word and the words of a byte sequence. -/

namespace Sys2Proof.Machine

/-- `wrap_inc`, the wraparound detector (R12): compares for equality with `N` after the increment
(R130). -/
def wrapInc (n i : Nat) : Nat := if i + 1 = n then 0 else i + 1

/-- `byte_count = wc * 4` (R83), for a count that is not negative. -/
def byteCount (wc : Int) : Nat := wc.toNat * 4

/-- Byte `k` of a word, byte 0 the least significant. -/
def wordByte (w : Word) (k : Nat) : Byte := w.extractLsb' (8 * k) 8

/-- `bytes_of` (R12, R55). -/
def bytesOf (o : ByteOrder) (w : Word) : List Byte :=
  match o with
  | .little => [wordByte w 0, wordByte w 1, wordByte w 2, wordByte w 3]
  | .big => [wordByte w 3, wordByte w 2, wordByte w 1, wordByte w 0]

/-- `word_of` (R12, R56). -/
def wordOf (o : ByteOrder) (b0 b1 b2 b3 : Byte) : Word :=
  match o with
  | .little => b3 ++ b2 ++ b1 ++ b0
  | .big => b0 ++ b1 ++ b2 ++ b3

/-- `serialize` (R12): word 0 first. -/
def serialize (o : ByteOrder) (ws : List Word) : List Byte := ws.flatMap (bytesOf o)

/-- The words assembled from the bytes four by four, the oldest bytes first (R141). Fewer than four
bytes at the end make no word. -/
def wordsOf (o : ByteOrder) : List Byte → List Word
  | b0 :: b1 :: b2 :: b3 :: rest => wordOf o b0 b1 b2 b3 :: wordsOf o rest
  | _ => []

/-- `take_last` (R12). -/
def takeLast (n : Nat) (l : List Byte) : List Byte := l.drop (l.length - n)

end Sys2Proof.Machine
end

