-- ==== Sys2Proof/Machine/Ops.lean ====
section
/-! DEFINITION. The named operations over storage, registers and the response port, which every
meaning is built from: byte accesses (00_scope.md R11), the copy loops (41_put.md R125, 42_get.md
R140), answering a command (R13), the common prologue (40_lifecycle.md R110), raising Fatal
(60_exceptions.md R186), hardware reset (70_reset_and_hazards.md R210) and the valid window (R12). -/

namespace Sys2Proof.Machine

/-- What an offset that nothing is listed for reads as: no value. Such an offset is stale, and the machine
reads a free byte there (`State.byteAt`). -/
def Memory.unlisted : Option Byte := none

/-- The canonical form: offsets strictly rising. No entry holds what an unlisted offset reads as,
since that is no byte. -/
abbrev Memory.wf (m : Memory) : Prop := m.Pairwise (fun x y => x.1 < y.1)

/-- The byte listed at an offset. -/
def Memory.read (m : Memory) (a : Nat) : Option Byte :=
  match m with
  | [] => Memory.unlisted
  | c :: rest => if c.1 = a then some c.2 else Memory.read rest a

/-- `storage[a] <- v`, keeping the canonical form. -/
def Memory.write (m : Memory) (a : Nat) (v : Byte) : Memory :=
  match m with
  | [] => [(a, v)]
  | c :: rest =>
    if a < c.1 then (a, v) :: c :: rest
    else if a = c.1 then (a, v) :: rest
    else c :: Memory.write rest a v

/-- The offset `a` is in the valid window (R12, R25): of a Ready block, and by its distance from
`out_index` one of the `count` offsets from there on. Every other byte of storage is stale (R27). -/
def State.resident (s : State) (a : Nat) : Bool :=
  s.ready && decide (a < s.params.capacity) &&
    decide ((a + s.params.capacity - s.outIndex.toNat) % s.params.capacity < s.count.toNat)

/-- The value of a stale byte: a draw of the environment, whatever was written there before it was
consumed, evicted or reset away (R27, D16, U1; DESIGN CHOICE, log entry 3). -/
def State.staleAt (s : State) (a : Nat) : Byte := Config.staleByte s.epoch a

/-- `storage[a]`: the byte written there, if it is in the window, else the stale byte's free value
(R27; log entries 3 and 18). -/
def State.byteAt (s : State) (a : Nat) : Byte :=
  if s.resident a then (Memory.read s.storage a).getD (s.staleAt a) else s.staleAt a

/-- `MemRead(a, 1)`, which requires `0 <= a < N` (R11; DEDUCED, log entry 9). -/
def memRead (s : State) (a : Nat) : Option Byte :=
  if a < s.params.capacity then some (s.byteAt a) else none

/-- `MemWrite(a, 1, v)`, which requires `0 <= a < N` (R11; DEDUCED, log entry 9). -/
def memWrite (n : Nat) (m : Memory) (a : Nat) (v : Byte) : Option Memory :=
  if a < n then some (Memory.write m a v) else none

/-- PUT's copy loop (R123 step 4, R125): each byte at `ii`, then `ii = wrap_inc(ii)`. It answers the
storage and the final `ii`, or nothing where an access is outside `0 .. N-1`. -/
def copyIn (n : Nat) (m : Memory) (ii : Nat) : List Byte → Option (Memory × Nat)
  | [] => some (m, ii)
  | b :: rest =>
    match memWrite n m ii b with
    | none => none
    | some m' => copyIn n m' (wrapInc n ii) rest

/-- GET's copy loop (R139, R140): `k` bytes from `oi` on, `oi = wrap_inc(oi)` after each. It answers
the bytes and the final `oi`, or nothing where an access is outside `0 .. N-1`. -/
def copyOut (s : State) (oi : Nat) : Nat → Option (List Byte × Nat)
  | 0 => some ([], oi)
  | k + 1 =>
    match memRead s oi with
    | none => none
    | some b =>
      match copyOut s (wrapInc s.params.capacity oi) k with
      | none => none
      | some (bs, oi') => some (b :: bs, oi')

/-- The offset of byte `j` from pointer `i` on (R125, R140). -/
def ringOffset (n i j : Nat) : Nat := (i + j) % n

/-- `window(s)` (R12): the valid unread bytes, oldest first. -/
def State.window (s : State) : List Byte :=
  (List.range s.count.toNat).map
    (fun j => s.byteAt (ringOffset s.params.capacity s.outIndex.toNat j))

/-- The response of the command being executed (R13, R90). -/
def State.answer (s : State) (r : Response) : State := { s with response := some r }

/-- `raise Fatal(cause)`: the block's one exception entry (R186). It sets `fault` and `fcause`, answers
FATAL, and changes nothing else. -/
def State.raised (s : State) (c : Cause) : State :=
  { s with fault := true, fcause := c.code, response := some (.fatal c.code) }

/-- The end of a command with an answer. -/
def respond (s : State) (r : Response) : Host.Outcome State Fault Refusal := .next (s.answer r)

/-- The end of a command with a fatal precondition violation. There is no return from it but hardware
reset (R188). -/
def raiseFatal (s : State) (c : Cause) : Host.Outcome State Fault Refusal := .next (s.raised c)

/-- The first step of every command (R110, R187): while `fault == 1` it is answered FATAL(fcause) and
changes nothing. -/
def unlessFaulted (s : State) (body : Host.Outcome State Fault Refusal) :
    Host.Outcome State Fault Refusal :=
  if s.fault then respond s (.fatal s.fcause) else body

/-- `do_init`, the four assignments of the first INIT (R111, R112). -/
def State.doInit (s : State) : State :=
  { s with count := 0#32, inIndex := 0#32, outIndex := 0#32, ready := true }

/-- `do_init` if `ready == 0` (R111, R122). -/
def State.ensureReady (s : State) : State := if s.ready then s else s.doInit

/-- PUT's commit (R123): `count`, `out_index`, `in_index` and `storage` together. -/
def State.commitPut (s : State) (m : Memory) (count out ii : Nat) : State :=
  { s with
    storage := m, count := BitVec.ofNat 32 count, outIndex := BitVec.ofNat 32 out,
    inIndex := BitVec.ofNat 32 ii }

/-- GET's commit (R139): `out_index` and `count`. The bytes read become stale (R140), so stale bytes are
drawn anew (R27); storage is not modified. -/
def State.commitGet (s : State) (count out : Nat) : State :=
  { s with count := BitVec.ofNat 32 count, outIndex := BitVec.ofNat 32 out, epoch := s.epoch + 1 }

/-- Hardware reset (R38, R210), an event between commands. The block's registers are as State.reset
has them, storage lists nothing and has new free contents. The requesters and the environment are
outside the block and stay (DEDUCED, log entry 11). -/
def State.hardwareReset (s : State) : State :=
  { s with
    storage := [], count := 0#32, inIndex := 0#32, outIndex := 0#32, ready := false,
    fault := false, fcause := 0#8, epoch := s.epoch + 1, response := none }

/-- The outcome with a further change of state after it. -/
def andThen (o : Host.Outcome State Fault Refusal) (f : State → State) :
    Host.Outcome State Fault Refusal :=
  match o with
  | .next s => .next (f s)
  | .fault r => .fault r
  | .refused r => .refused r

end Sys2Proof.Machine
end

