-- ==== Sys2Proof/Machine/Client.lean ====
section
/-! DEFINITION. The client pseudo-operations (44_event_encoder.md): the commands each issues, what it
does with each answer, and what it returns. They run in a requester, outside the block. -/

namespace Sys2Proof.Machine

/-- `MAGIC`: its lower half is 0, the constraint `MAGIC & 0x0000FFFF == 0` of R8 and R161. -/
def magicWord (p : Params) : Word := p.magicHigh ++ 0#16

/-- `ts = (now_ms & 0x0000FFFF) | MAGIC` (R161, R169). -/
def timestampWord (p : Params) (nowMs : Word) : Word := (nowMs &&& 0x0000FFFF#32) ||| magicWord p

/-- `hex8` (R165): eight lowercase hexadecimal digits, the most significant nibble first. -/
def hex8 (w : Word) : List Char :=
  [28, 24, 20, 16, 12, 8, 4, 0].map (fun k => Nat.digitChar ((w >>> k).toNat % 16))

/-- The string of COUNT_READ (R168): bytes, or words rounded down. -/
def countString (p : Params) (v : Word) : List Char :=
  match p.countUnit with
  | .bytes => hex8 v
  | .words => hex8 (BitVec.ofNat 32 (v.toNat / 4))

/-- `n = min(max_words, v / 4)`, and no GET at all if `n <= 0` (R164, D31). -/
def drainSize (maxWords : Int) (v : Word) : Nat := (min maxWords ((v.toNat / 4 : Nat) : Int)).toNat

/-- The command frame a task issues (R162, R164, R168). -/
def taskFrame (t : Task) : Frame :=
  match t with
  | .command f => f
  | .eventTime ts _ => putFrame [ts]
  | .eventStatus status => putFrame [status]
  | .drainCount _ _ => encode .occ
  | .drainWords _ _ _ _ => encode (.get 1)
  | .count => encode .occ

/-- What a drain returns: string and count, or the string only for FRAME_READ (R164, R167, C11). -/
def drainResult (text : List Char) (drained : Nat) (asFrame : Bool) : ClientResult :=
  if asFrame then .frameText text else .report text drained

/-- A drain with `left` words to go: its next GET, or its end (R164). -/
def drainNext (left : Nat) (text : List Char) (drained : Nat) (asFrame : Bool) :
    Option Task × List ClientResult :=
  if left = 0 then (none, [drainResult text drained asFrame])
  else (some (.drainWords left text drained asFrame), [])

/-- What a task does with the answer to its command: the command it issues next, if any, and what it
returns, if it ends. RECORD_EVENT issues its second PUT whatever the first was answered (R162). A drain
ends at ERR_NODATA (R164, D22). A read answered FATAL ends without a value (log entry 12). -/
def taskAnswered (p : Params) (t : Task) (a : Response) : Option Task × List ClientResult :=
  match t with
  | .command _ => (none, [])
  | .eventTime _ status => (some (.eventStatus status), [])
  | .eventStatus _ => (none, [])
  | .drainCount maxWords asFrame =>
    match a with
    | .ok (v :: _) => drainNext (drainSize maxWords v) [] 0 asFrame
    | .ok [] => (none, [])
    | .errNoData => (none, [])
    | .fatal code => (none, [.aborted code])
  | .drainWords left text drained asFrame =>
    match a with
    | .ok (w :: _) => drainNext (left - 1) (text ++ hex8 w) (drained + 1) asFrame
    | .ok [] => (none, [])
    | .errNoData => (none, [drainResult text drained asFrame])
    | .fatal code => (none, [.aborted code])
  | .count =>
    match a with
    | .ok (v :: _) => (none, [.countText (countString p v)])
    | .ok [] => (none, [])
    | .errNoData => (none, [])
    | .fatal code => (none, [.aborted code])

/-- The next reading of the time source: the environment's, or a free value (R166, D24). -/
def State.nextTime (s : State) : Word :=
  match s.times with
  | [] => Config.nowMs s.draws
  | t :: _ => t

/-- The state after one reading of the time source. -/
def State.timeRead (s : State) : State :=
  match s.times with
  | [] => { s with draws := s.draws + 1 }
  | _ :: rest => { s with times := rest }

/-- The expansion of each job into its first task (R96): TRACKING is RECORD_EVENT at the time read,
FRAME_READ is DRAIN_REPORT MAX_REPORT_WORDS. -/
def jobTask (s : State) (j : Job) : Task :=
  match j with
  | .command f => .command f
  | .recordEvent status nowMs => .eventTime (timestampWord s.params nowMs) status
  | .tracking status => .eventTime (timestampWord s.params s.nextTime) status
  | .drainReport maxWords => .drainCount maxWords false
  | .frameRead => .drainCount s.params.maxReportWords true
  | .countRead => .count

/-- The state after a job's start: TRACKING reads the time source. -/
def jobStarted (s : State) (j : Job) : State :=
  match j with
  | .command _ => s
  | .recordEvent _ _ => s
  | .tracking _ => s.timeRead
  | .drainReport _ => s
  | .frameRead => s
  | .countRead => s

/-- A requester that has its next command on its port. -/
def Requester.issuing (r : Requester) (t : Task) : Requester :=
  { r with port := some (taskFrame t), task := some t }

/-- A requester that has received the answer to its command (R61): its port is free, and its task
goes on. -/
def Requester.answered (p : Params) (r : Requester) (a : Response) : Requester :=
  match r.task with
  | none => { r with port := none, received := r.received ++ [a] }
  | some t =>
    { r with
      port := none, task := (taskAnswered p t a).1, received := r.received ++ [a],
      results := r.results ++ (taskAnswered p t a).2 }

end Sys2Proof.Machine
end

