-- ==== Sys2Proof/Machine/Get.lean ====
section
/-! DEFINITION. The meaning of GET (42_get.md). -/

namespace Sys2Proof.Machine

/-- GET after its checks (R139): copies `b` bytes out, assembles the words, and commits. -/
def getWords (s : State) (b : Nat) : Host.Outcome State Fault Refusal :=
  match copyOut s s.outIndex.toNat b with
  | none => .fault .storageRange
  | some (bytes, oi) =>
    respond (s.commitGet (s.count.toNat - b) oi) (.ok (wordsOf s.params.byteOrder bytes))

/-- GET (R139), its checks in the order of R136, R137, R138. -/
def execGet (wc : Int) (s : State) : Host.Outcome State Fault Refusal :=
  if wcExpressible wc then
    unlessFaulted s <|
      if wc ≤ 0 then raiseFatal s .badCount
      else if s.ready then
        if s.count.toNat < byteCount wc then respond s .errNoData
        else getWords s (byteCount wc)
      else raiseFatal s .uninit
  else .refused .countNotExpressible

end Sys2Proof.Machine
end

