-- ==== Sys2Proof/Machine/Lifecycle.lean ====
section
/-! DEFINITION. The meanings of INIT and DEINIT (40_lifecycle.md). -/

namespace Sys2Proof.Machine

/-- INIT (R111): the first call zeroes the three registers and sets `ready`; a later one does nothing.
Storage is not written. -/
def execInit (s : State) : Host.Outcome State Fault Refusal :=
  unlessFaulted s (respond s.ensureReady (.ok []))

/-- DEINIT (R113): nothing, in either lifecycle state. -/
def execDeinit (s : State) : Host.Outcome State Fault Refusal :=
  unlessFaulted s (respond s (.ok []))

end Sys2Proof.Machine
end

