-- ==== Sys2Proof/Machine/Occupancy.lean ====
section
/-! DEFINITION. The meaning of OCC (43_occupancy.md). -/

namespace Sys2Proof.Machine

/-- OCC (R151, R152): the count in bytes, or Fatal(UNINIT). -/
def execOcc (s : State) : Host.Outcome State Fault Refusal :=
  unlessFaulted s <|
    if s.ready then respond s (.ok [s.count]) else raiseFatal s .uninit

end Sys2Proof.Machine
end

