-- ==== Sys2Proof/Machine/Put.lean ====
section
/-! DEFINITION. The meaning of PUT (41_put.md). -/

namespace Sys2Proof.Machine

/-- PUT after its checks and the implicit init (R123 steps 1 to 4 and the commit). -/
def putWords (s : State) (ws : List Word) : Host.Outcome State Fault Refusal :=
  let n := s.params.capacity
  let b := byteCount ws.length
  match copyIn n s.storage s.inIndex.toNat (serialize s.params.byteOrder ws) with
  | none => .fault .storageRange
  | some (m, ii) =>
    respond
      (s.commitPut m (putCount n s.count.toNat b)
        (putOut n s.count.toNat s.outIndex.toNat b) ii)
      (.ok [])

/-- PUT (R123), its preconditions in the order of R121, then the implicit init of R122. -/
def execPut (src : Option (List Word)) (wc : Int) (s : State) : Host.Outcome State Fault Refusal :=
  if wcExpressible wc then
    unlessFaulted s <|
      if wc ≤ 0 then raiseFatal s .badCount
      else
        match src with
        | none => raiseFatal s .nullBuf
        | some ws =>
          if (ws.length : Int) ≠ wc then raiseFatal s .badFrame
          else putWords s.ensureReady ws
  else .refused .countNotExpressible

end Sys2Proof.Machine
end

