-- ==== Sys2Proof/Machine/Dispatch.lean ====
section
/-! DEFINITION. One arm per command (30_encoding.md R80). -/

namespace Sys2Proof.Machine

def exec (i : Instr) (s : State) : Host.Outcome State Fault Refusal :=
  match i with
  | .init => Sys2Proof.Machine.execInit s
  | .put src wc => Sys2Proof.Machine.execPut src wc s
  | .get wc => Sys2Proof.Machine.execGet wc s
  | .occ => Sys2Proof.Machine.execOcc s
  | .deinit => Sys2Proof.Machine.execDeinit s

end Sys2Proof.Machine
end

