-- ==== Sys2Proof/Machine/Port.lean ====
section
/-! DEFINITION. The command port, the arbiter and the requesters' moves (20_memory.md R60 to R64): a
frame is decoded and executed as one atomic step and its response goes back to the requester that
issued it; whose turn is next is the environment's choice. -/

namespace Sys2Proof.Machine

/-- Executing a frame (R91, R110): an illegal one raises Fatal, a legal one is its command. -/
def executeFrame (f : Frame) (s : State) : Host.Outcome State Fault Refusal :=
  match decode f with
  | .error c => unlessFaulted s (raiseFatal s c)
  | .ok i => exec i s

/-- A requester that can move: it has a command on its port, or one to issue. -/
def Requester.active (r : Requester) : Bool :=
  r.port.isSome || r.task.isSome || !r.work.isEmpty

/-- The places, from `k` on, of the requesters that can move. -/
def activeFrom (k : Nat) : List Requester → List Nat
  | [] => []
  | r :: rest => if r.active then k :: activeFrom (k + 1) rest else activeFrom (k + 1) rest

/-- The one that a pick selects. With a single candidate there is no choice. -/
def choose (pick : Nat) (places : List Nat) : Option Nat :=
  match places with
  | [] => none
  | [k] => some k
  | k :: l :: rest => (k :: l :: rest)[pick % (rest.length + 2)]?

/-- The requester in place `k` can move. -/
def canMove (rs : List Requester) (k : Nat) : Bool := (rs[k]?.map Requester.active).getD false

/-- Which requester moves next (R62, D3): the one the environment names, where it can move; else one of
those that can, by the number the environment gave or by a free value. -/
def State.nextTurn (s : State) : Option Nat :=
  match s.schedule with
  | .turn k :: _ =>
    if canMove s.requesters k then some k else choose k (activeFrom 0 s.requesters)
  | .reset :: _ => choose (Config.turnPick s.draws) (activeFrom 0 s.requesters)
  | [] => choose (Config.turnPick s.draws) (activeFrom 0 s.requesters)

/-- The state with the pick of this step used up. -/
def State.turnTaken (s : State) : State :=
  match s.schedule with
  | [] => { s with draws := s.draws + 1 }
  | _ :: rest => { s with schedule := rest }

/-- The state with requester `k` replaced. -/
def State.withRequester (s : State) (k : Nat) (r : Requester) : State :=
  { s with requesters := s.requesters.set k r }

/-- The response of the command just executed goes to the requester that issued it (R81). -/
def deliver (k : Nat) (s : State) : State :=
  match s.requesters[k]?, s.response with
  | some r, some a => s.withRequester k (r.answered s.params a)
  | _, _ => s

/-- A requester with a free port issues its next command: of its task in progress, or of its next
job. -/
def issue (k : Nat) (r : Requester) (s : State) : State :=
  match r.task with
  | some t => s.withRequester k (r.issuing t)
  | none =>
    match r.work with
    | [] => s
    | j :: rest => (jobStarted s j).withRequester k ({ r with work := rest }.issuing (jobTask s j))

/-- The move of requester `k`: its pending command is granted and executed, or it issues its next
one. -/
def turn (k : Nat) (s : State) : Host.Outcome State Fault Refusal :=
  match s.requesters[k]? with
  | none => .next s
  | some r =>
    match r.port with
    | some f => andThen (executeFrame f s) (deliver k)
    | none => .next (issue k r s)

/-- The state with the environment's next event, if any, used up. -/
def State.eventTaken (s : State) : State := { s with schedule := s.schedule.tail }

/-- The turn of a requester, or nothing at all where none can move: nothing in the block moves without
a command (R60). -/
def requesterMove (s : State) : Host.Outcome State Fault Refusal :=
  match s.nextTurn with
  | none => .next s.eventTaken
  | some k => turn k s.turnTaken

/-- One move of the machine: the scheduled hardware reset (R210), or the turn of a requester. -/
def move (s : State) : Host.Outcome State Fault Refusal :=
  match s.schedule with
  | .reset :: _ => .next s.eventTaken.hardwareReset
  | .turn _ :: _ => requesterMove s
  | [] => requesterMove s

/-- The state with a frame on the port of its first requester, and that requester's turn next. What was
on that port is gone. (`Req` is not empty, R8; the function is total, so a list without requesters, which
no state with the invariant has, gets one.) -/
def State.withFrame (s : State) (f : Frame) : State :=
  { s with
    requesters := (s.requesters.headD Requester.idle).issuing (.command f) :: s.requesters.tail,
    schedule := .turn 0 :: s.schedule }

/-- The state with one more job for requester `k`: how a program comes to a requester from outside. -/
def State.withJob (s : State) (k : Nat) (j : Job) : State :=
  match s.requesters[k]? with
  | none => s
  | some r => s.withRequester k { r with work := r.work ++ [j] }

end Sys2Proof.Machine
end

