-- ==== Sys2Proof/Machine/Step.lean ====
section
/-! DEFINITION. One step of the machine, and where a step takes its next command from. -/

namespace Sys2Proof.Machine

/-- One step: a move of one requester or of the environment (20_memory.md R60 to R64). -/
def step (s : State) : Host.Outcome State Fault Refusal := move s

/-- The state whose very next step executes the instruction whose bits are `w`: its frame stands on the
first requester's port and that requester has the turn. -/
def State.withFetchWord (s : State) (nbits w : Nat) : State := s.withFrame (tableFrame nbits w)

end Sys2Proof.Machine
end

