-- ==== Sys2Proof/Safety.lean ====
section
/-! DEFINITION. What the claims speak of: the invariants of 10_state.md section 5 and R25 to R30, the
abstract queue of R37, runs and command histories, and the named premises on the environment
(60_exceptions.md R196, 20_memory.md R65). -/

namespace Sys2Proof.Machine

/-- The ring's registers are in range and agree (R22, R26, R35). -/
structure State.RingInv (s : State) : Prop where
  count_le : s.count.toNat ≤ s.params.capacity
  in_lt : s.inIndex.toNat < s.params.capacity
  out_lt : s.outIndex.toNat < s.params.capacity
  pointers : s.inIndex.toNat = ringOffset s.params.capacity s.outIndex.toNat s.count.toNat

/-- `fcause` is 0 while `fault == 0`, and one of the five causes while `fault == 1` (R30, R183). -/
def State.CauseInv (s : State) : Prop :=
  if s.fault then 1 ≤ s.fcause.toNat ∧ s.fcause.toNat ≤ 5 else s.fcause = 0#8

/-- The invariant of the block: storage in canonical form and inside `0 .. N-1`, the cause field, and in
every Ready state the ring's registers and a window of written bytes only (R25, R142). -/
structure State.BlockInv (s : State) : Prop where
  storage_wf : Memory.wf s.storage
  storage_lt : ∀ c ∈ s.storage, c.1 < s.params.capacity
  cause : s.CauseInv
  ring : s.ready = true → s.RingInv
  written : s.ready = true → ∀ j, j < s.count.toNat →
    (Memory.read s.storage (ringOffset s.params.capacity s.outIndex.toNat j)).isSome = true

/-- The invariant of the machine: that of the block, and one requester for each member of `Req`, which is
finite and not empty (R8, R60). -/
structure State.Inv (s : State) : Prop extends s.BlockInv where
  members : s.requesters.length = s.params.requesterCount

/-- No requester but the one in place `k` has a command on its port or one to issue. -/
def State.OnlyActive (s : State) (k : Nat) : Prop :=
  ∀ (j : Nat) (q : Requester), j ≠ k → s.requesters[j]? = some q →
    q.port = none ∧ q.task = none ∧ q.work = []

/-- The registers of a Ready ring are multiples of 4 (R36). -/
def State.Aligned (s : State) : Prop :=
  s.ready = true →
    s.count.toNat % 4 = 0 ∧ s.inIndex.toNat % 4 = 0 ∧ s.outIndex.toNat % 4 = 0

/-- The abstract queue of R37: the window of a Ready block, nothing before the first initialisation. -/
def State.queue (s : State) : List Byte := if s.ready then s.window else []

/-- The words of the abstract queue. -/
def State.residentWords (s : State) : List Word := wordsOf s.params.byteOrder s.queue

/-- What each command does to the abstract queue, and its answer (R37), for a command that raises no
Fatal. -/
def queueStep (p : Params) (i : Instr) (q : List Byte) : List Byte × Response :=
  match i with
  | .init => (q, .ok [])
  | .put src _ => (takeLast p.capacity (q ++ serialize p.byteOrder (src.getD [])), .ok [])
  | .get wc =>
    if q.length < byteCount wc then (q, .errNoData)
    else (q.drop (byteCount wc), .ok (wordsOf p.byteOrder (q.take (byteCount wc))))
  | .occ => (q, .ok [BitVec.ofNat 32 q.length])
  | .deinit => (q, .ok [])

/-- The words a command wrote, given its answer. -/
def writtenBy (i : Instr) (a : Option Response) : List Word :=
  match i, a with
  | .put (some ws) _, some (.ok _) => ws
  | _, _ => []

/-- The words a command returned from the ring, given its answer. -/
def readBy (i : Instr) (a : Option Response) : List Word :=
  match i, a with
  | .get _, some (.ok ws) => ws
  | _, _ => []

/-- All words written and all words read along a sequence of commands, in grant order (R64, R143). -/
def history : List Instr → State → List Word × List Word
  | [], _ => ([], [])
  | i :: rest, s =>
    match exec i s with
    | .next t =>
      (writtenBy i t.response ++ (history rest t).1, readBy i t.response ++ (history rest t).2)
    | .fault _ => ([], [])
    | .refused _ => ([], [])

/-- `k` steps of the machine. -/
def runSteps : Nat → State → Host.Outcome State Fault Refusal
  | 0, s => .next s
  | k + 1, s =>
    match step s with
    | .next t => runSteps k t
    | .fault r => .fault r
    | .refused r => .refused r

/-- No hardware reset is the next event. -/
def State.noResetNext (s : State) : Prop := s.schedule.head? ≠ some .reset

/-- Two states of the block agree in everything a requester can learn: the registers, and the words of
the window, whatever the byte order (R57). -/
structure SameToRequesters (s t : State) : Prop where
  capacity : s.params.capacity = t.params.capacity
  count : s.count = t.count
  inIndex : s.inIndex = t.inIndex
  outIndex : s.outIndex = t.outIndex
  ready : s.ready = t.ready
  fault : s.fault = t.fault
  fcause : s.fcause = t.fcause
  words : s.residentWords = t.residentWords

/-- A command word that is no command's: reserved bits, a reserved opcode, or a count on a command
that takes none (R93). -/
abbrev IllegalWord (cw : Word) : Prop :=
  cw.toNat / 16777216 % 16 ≠ 0 ∨ cw.toNat / 268435456 = 0 ∨ 6 ≤ cw.toNat / 268435456 ∨
    ((cw.toNat / 268435456 = 1 ∨ cw.toNat / 268435456 = 4 ∨ cw.toNat / 268435456 = 5) ∧
      cw.toNat % 16777216 ≠ 0)

/-- The 24-bit count field read in two's complement (R10, R83), by arithmetic on the command word. -/
def signedCount (cw : Word) : Int :=
  if cw.toNat % 16777216 < 8388608 then ((cw.toNat % 16777216 : Nat) : Int)
  else ((cw.toNat % 16777216 : Nat) : Int) - 16777216

/-- A job that can issue a PUT. -/
def Job.writes (j : Job) : Bool :=
  match j with
  | .command f => opField f.cw == 0x2#4
  | .recordEvent _ _ => true
  | .tracking _ => true
  | .drainReport _ => false
  | .frameRead => false
  | .countRead => false

/-- A task that can issue a PUT. -/
def Task.writes (t : Task) : Bool :=
  match t with
  | .command f => opField f.cw == 0x2#4
  | .eventTime _ _ => true
  | .eventStatus _ => true
  | .drainCount _ _ => false
  | .drainWords _ _ _ _ => false
  | .count => false

/-- A requester that has a PUT on its port or may still issue one. -/
def Requester.writes (r : Requester) : Bool :=
  r.work.any Job.writes || (r.task.map Task.writes).getD false ||
    (r.port.map (fun f => opField f.cw == 0x2#4)).getD false

/-- `SingleProducer` (R196): at most one requester issues PUT. -/
def State.SingleProducer (s : State) : Prop :=
  ∀ (j k : Nat) (r q : Requester), s.requesters[j]? = some r → s.requesters[k]? = some q →
    r.writes = true → q.writes = true → j = k

/-- A frame that a requester that only reads may send: GET or OCC. -/
def frameOnlyReads (f : Frame) : Bool := opField f.cw == 0x3#4 || opField f.cw == 0x4#4

/-- A job of a requester that issues only GET and OCC. -/
def Job.onlyReads (j : Job) : Bool :=
  match j with
  | .command f => frameOnlyReads f
  | .recordEvent _ _ => false
  | .tracking _ => false
  | .drainReport _ => true
  | .frameRead => true
  | .countRead => true

/-- A task that issues only GET and OCC. -/
def Task.onlyReads (t : Task) : Bool :=
  match t with
  | .command f => frameOnlyReads f
  | .eventTime _ _ => false
  | .eventStatus _ => false
  | .drainCount _ _ => true
  | .drainWords _ _ _ _ => true
  | .count => true

/-- A requester that issues only GET and OCC. -/
def Requester.onlyReads (r : Requester) : Bool :=
  r.work.all Job.onlyReads && (r.task.map Task.onlyReads).getD true &&
    (r.port.map frameOnlyReads).getD true

/-- `ConsumersOnlyRead` (R196): every requester but the producer, in place `producer`, issues only GET
and OCC. -/
def State.ConsumersOnlyRead (s : State) (producer : Nat) : Prop :=
  ∀ (k : Nat) (r : Requester), s.requesters[k]? = some r → k ≠ producer → r.onlyReads = true

/-- A run: each state is one step after the one before it. Its requesters issue the jobs they start with
and no more (DESIGN CHOICE, log entry 25). -/
def IsRun (run : Nat → State) : Prop := ∀ n, step (run n) = .next (run (n + 1))

/-- What the environment may supply between two steps: further jobs for any requester, further choices and
further readings of the time source. -/
structure Supplied (t u : State) : Prop where
  rest : u = { t with requesters := u.requesters, schedule := u.schedule, times := u.times }
  work : List.Forall₂ (fun q r : Requester => ∃ jobs, r = { q with work := q.work ++ jobs })
    t.requesters u.requesters
  schedule : t.schedule <+: u.schedule
  times : t.times <+: u.times

/-- A run whose requesters may be supplied with jobs without end: each state is one step after the one
before it, and what the environment then supplied. In such a run a pending command may never be granted
(U7, D3). -/
def IsOpenRun (run : Nat → State) : Prop :=
  ∀ n, ∃ t, step (run n) = .next t ∧ Supplied t (run (n + 1))

/-- The named assumption for liveness, a weakly fair arbiter (R65): a requester that keeps a command on
its port from some state on has the turn in some later state. No safety claim takes it. -/
def WeaklyFair (run : Nat → State) : Prop :=
  ∀ (n k : Nat),
    (∀ m, n ≤ m → ∃ r : Requester, (run m).requesters[k]? = some r ∧ r.port.isSome = true) →
    ∃ m, n ≤ m ∧ (run m).noResetNext ∧ (run m).nextTurn = some k

end Sys2Proof.Machine
end

