-- ==== Sys2Proof/Certificates/Slice0/Obligations.lean ====
section
/-! DEFINITION. The statements for the provers, from the numbered rules of spec/. Each docstring names
the rule it states; a clause that rests on the model's own choice names the log entry. -/

open Sys2Proof Sys2Proof.Machine

/-! ## Reset and invariants -/

/-- R8, R38, R210: State.reset is Uninitialized and unfaulted with cause 0, and the machine's invariant
holds there and after reset of an instance of any parameters. A hardware reset puts the block into its
invariant from any state, and keeps the machine's. That every requester is idle at reset is log
entry 5. -/
def Obligations.InvariantHoldsAtReset : Prop :=
  State.reset.ready = false ∧ State.reset.fault = false ∧ State.reset.fcause = 0#8 ∧
    State.reset.Inv ∧ (∀ p, (State.resetOf p).Inv) ∧
    (∀ (p : Params) (r : Requester), r ∈ (State.resetOf p).requesters →
      r.port = none ∧ r.task = none ∧ r.work = []) ∧
    (∀ s : State, s.hardwareReset.BlockInv) ∧ (∀ s : State, s.Inv → s.hardwareReset.Inv)

/-- R38, R188, R210: a hardware reset, as an event of the environment, is a step of its own that leaves
`ready`, `fault` and `fcause` 0 whatever they were and keeps no byte of storage. That the requesters and
the rest of the schedule stay is the model's choice (log entry 11). -/
def Obligations.ResetEventResetsTheBlock : Prop :=
  ∀ s : State, s.schedule.head? = some .reset →
    ∃ t, step s = .next t ∧ t.ready = false ∧ t.fault = false ∧ t.fcause = 0#8 ∧
      (∀ a, Memory.read t.storage a = none) ∧ t.params = s.params ∧
      t.requesters = s.requesters ∧ t.schedule = s.schedule.tail

/-- R8, R22, R25, R26, R30, R35, R142: every step keeps the invariant of the block and that of the machine,
which adds one requester for each member of `Req`. -/
def Obligations.StepKeepsInvariant : Prop :=
  ∀ s t : State, step s = .next t → (s.BlockInv → t.BlockInv) ∧ (s.Inv → t.Inv)

/-- R13, R65: from every state with the invariant the machine goes on: no step stops it, whatever
frames are on the ports. -/
def Obligations.StepNeverStops : Prop :=
  ∀ s : State, s.BlockInv → ∃ t, step s = .next t

/-- R31, R35: in a Ready state with the invariant the two pointers are equal exactly when the ring is empty
or full, so that only `count` tells those two apart. -/
def Obligations.EqualPointersMeanEmptyOrFull : Prop :=
  ∀ s : State, s.BlockInv → s.ready = true →
    (s.inIndex = s.outIndex ↔ (s.isEmpty = true ∨ s.isFull = true))

/-- Every step keeps storage in its canonical form, with no other premise on the state. -/
def Obligations.StepKeepsStorageForm : Prop :=
  ∀ s t : State, Memory.wf s.storage → step s = .next t → Memory.wf t.storage

/-- R36: where the capacity is a multiple of 4, the registers of a Ready ring stay multiples of 4. -/
def Obligations.StepKeepsAlignment : Prop :=
  ∀ s t : State, s.params.WordAligned → s.BlockInv → s.Aligned → step s = .next t → t.Aligned

/-- R8: the parameters are the same after every step. -/
def Obligations.ParametersNeverChange : Prop :=
  ∀ s t : State, step s = .next t → t.params = s.params

/-- R187, R188: while `fault == 1`, a step that is no hardware reset changes nothing of the block. -/
def Obligations.FaultIsSticky : Prop :=
  ∀ s t : State, s.fault = true → s.noResetNext → step s = .next t →
    t.fault = true ∧ t.fcause = s.fcause ∧ t.ready = s.ready ∧ t.count = s.count ∧
      t.inIndex = s.inIndex ∧ t.outIndex = s.outIndex ∧ t.storage = s.storage

/-- R28: only hardware reset takes `ready` from 1 to 0. -/
def Obligations.ReadyIsLeftByResetOnly : Prop :=
  ∀ s t : State, s.ready = true → step s = .next t →
    (t.ready = false ↔ s.schedule.head? = some .reset)

/-! ## Frames and decoding -/

/-- R82 to R85, R91: decoding the frame of a well-formed command gives the command back. -/
def Obligations.DecodeOfEncode : Prop :=
  ∀ i : Instr, i.wf = true → decode (encode i) = .ok i

/-- R82 to R85, R91: a frame that decodes to a command is that command's frame, and the command is
well formed. -/
def Obligations.EncodeOfDecode : Prop :=
  ∀ (f : Frame) (i : Instr), decode f = .ok i → i.wf = true ∧ encode i = f

/-- R84: a command word selects the row whose match and mask it fits, the five rows are disjoint, and a
word that selects no row is illegal. -/
def Obligations.CommandWordSelectsItsRow : Prop :=
  (∀ cw : Word, cw &&& 0xFFFFFFFF#32 = 0x10000000#32 → decode ⟨cw, []⟩ = .ok .init) ∧
  (∀ (cw : Word) (ws : List Word), cw &&& 0xFF000000#32 = 0x20000000#32 →
    decode ⟨cw, ws⟩ = .ok (.put (if ws = [] then none else some ws) (signedCount cw))) ∧
  (∀ cw : Word, cw &&& 0xFF000000#32 = 0x30000000#32 →
    decode ⟨cw, []⟩ = .ok (.get (signedCount cw))) ∧
  (∀ cw : Word, cw &&& 0xFFFFFFFF#32 = 0x40000000#32 → decode ⟨cw, []⟩ = .ok .occ) ∧
  (∀ cw : Word, cw &&& 0xFFFFFFFF#32 = 0x50000000#32 → decode ⟨cw, []⟩ = .ok .deinit) ∧
  ([(0x10000000#32, 0xFFFFFFFF#32), (0x20000000#32, 0xFF000000#32), (0x30000000#32, 0xFF000000#32),
    (0x40000000#32, 0xFFFFFFFF#32), (0x50000000#32, 0xFFFFFFFF#32)] : List (Word × Word)).Pairwise
      (fun a b => ∀ cw : Word, ¬ (cw &&& a.2 = a.1 ∧ cw &&& b.2 = b.1)) ∧
  (∀ (cw : Word) (ws : List Word), cw &&& 0xFFFFFFFF#32 ≠ 0x10000000#32 →
    cw &&& 0xFF000000#32 ≠ 0x20000000#32 → cw &&& 0xFF000000#32 ≠ 0x30000000#32 →
    cw &&& 0xFFFFFFFF#32 ≠ 0x40000000#32 → cw &&& 0xFFFFFFFF#32 ≠ 0x50000000#32 →
    decode ⟨cw, ws⟩ = .error .illegalCmd)

/-- R91, R93: which frames the decoder rejects, and with which cause. -/
def Obligations.DecoderRejectsReservedFrames : Prop :=
  ∀ f : Frame,
    (decode f = .error .illegalCmd ↔ IllegalWord f.cw) ∧
    (decode f = .error .badFrame ↔
      ¬ IllegalWord f.cw ∧ f.cw.toNat / 268435456 ≠ 2 ∧ f.payload ≠ []) ∧
    ∀ c, decode f = .error c → c = .illegalCmd ∨ c = .badFrame

/-- A few words written out from the encodings of R84 and R85 decode to what they stand for. -/
def Obligations.WrittenOutFramesDecode : Prop :=
  decode ⟨0x10000000#32, []⟩ = .ok .init ∧
  decode ⟨0x20000001#32, [0x11223344#32]⟩ = .ok (.put (some [0x11223344#32]) 1) ∧
  decode ⟨0x20800000#32, []⟩ = .ok (.put none (-8388608)) ∧
  decode ⟨0x30000002#32, []⟩ = .ok (.get 2) ∧
  decode ⟨0x30FFFFFF#32, []⟩ = .ok (.get (-1)) ∧
  decode ⟨0x40000000#32, []⟩ = .ok .occ ∧
  decode ⟨0x50000000#32, []⟩ = .ok .deinit

/-- R82, R85: the frame of each command: its opcode in the top four bits, the count modulo 2^24 in the low
24, the payload of a PUT its source words and no payload on any other. -/
def Obligations.FrameOfEachCommand : Prop :=
  encode .init = ⟨0x10000000#32, []⟩ ∧ encode .occ = ⟨0x40000000#32, []⟩ ∧
  encode .deinit = ⟨0x50000000#32, []⟩ ∧
  (∀ wc : Int, (encode (.get wc)).cw.toNat = 3 * 268435456 + (wc % 16777216).toNat ∧
    (encode (.get wc)).payload = []) ∧
  (∀ (ws : List Word) (wc : Int),
    (encode (.put (some ws) wc)).cw.toNat = 2 * 268435456 + (wc % 16777216).toNat ∧
    (encode (.put (some ws) wc)).payload = ws) ∧
  (∀ wc : Int, encode (.put none wc) = ⟨(encode (.put (some []) wc)).cw, []⟩)

/-- R12, R56: words laid in bytes and assembled again in the same byte order are the words; up
to three bytes left over make no word. -/
def Obligations.WordsSurviveSerialization : Prop :=
  ∀ (o : ByteOrder) (ws : List Word) (rest : List Byte), rest.length < 4 →
    wordsOf o (serialize o ws ++ rest) = ws

/-- R12, R55: which byte of a word stands at which place, in either order. -/
def Obligations.ByteOrderOfAWord : Prop :=
  ∀ (w : Word) (k : Nat), k < 4 →
    ((serialize .little [w])[k]?.map BitVec.toNat = some (w.toNat / 256 ^ k % 256)) ∧
    ((serialize .big [w])[k]?.map BitVec.toNat = some (w.toNat / 256 ^ (3 - k) % 256))

/-- R90: the response word of each kind of answer, and that only OK carries data words. -/
def Obligations.ResponseWordLayout : Prop :=
  (∀ data : List Word, (Response.ok data).words = 0x00000000#32 :: data) ∧
  (Response.errNoData.words = [0x10000000#32]) ∧
  (∀ c : Byte, ∃ rw : Word, (Response.fatal c).words = [rw] ∧
    rw.toNat = 15 * 268435456 + c.toNat)

/-! ## The commands -/

/-- R186, R187, R190: the order of the checks of every frame, the response and the state each gives,
and that a frame which passes them all is answered OK. -/
def Obligations.ChecksInOrder : Prop :=
  ∀ (f : Frame) (s : State), s.BlockInv →
    if s.fault = true then
      executeFrame f s = .next { s with response := some (.fatal s.fcause) }
    else if IllegalWord f.cw then
      executeFrame f s =
        .next { s with fault := true, fcause := 4#8, response := some (.fatal 4#8) }
    else if f.cw.toNat / 268435456 ≠ 2 ∧ f.payload ≠ [] then
      executeFrame f s =
        .next { s with fault := true, fcause := 5#8, response := some (.fatal 5#8) }
    else if (f.cw.toNat / 268435456 = 2 ∨ f.cw.toNat / 268435456 = 3) ∧ signedCount f.cw ≤ 0 then
      executeFrame f s =
        .next { s with fault := true, fcause := 1#8, response := some (.fatal 1#8) }
    else if f.cw.toNat / 268435456 = 2 ∧ f.payload = [] then
      executeFrame f s =
        .next { s with fault := true, fcause := 2#8, response := some (.fatal 2#8) }
    else if f.cw.toNat / 268435456 = 2 ∧ (f.payload.length : Int) ≠ signedCount f.cw then
      executeFrame f s =
        .next { s with fault := true, fcause := 5#8, response := some (.fatal 5#8) }
    else if (f.cw.toNat / 268435456 = 3 ∨ f.cw.toNat / 268435456 = 4) ∧ s.ready = false then
      executeFrame f s =
        .next { s with fault := true, fcause := 3#8, response := some (.fatal 3#8) }
    else if f.cw.toNat / 268435456 = 3 ∧ (s.count.toNat : Int) < 4 * signedCount f.cw then
      executeFrame f s = .next { s with response := some .errNoData }
    else
      ∃ t data, executeFrame f s = .next t ∧ t.response = some (.ok data) ∧ t.fault = false

/-- R111, R112: INIT on an Uninitialized block zeroes the three registers and sets `ready`; on a Ready
block it changes nothing; it answers OK, and storage is not written. -/
def Obligations.InitZeroesOnFirstUseOnly : Prop :=
  ∀ s : State, s.fault = false →
    (s.ready = false → exec .init s =
      .next { s with count := 0#32, inIndex := 0#32, outIndex := 0#32, ready := true, response := some (.ok []) }) ∧
    (s.ready = true → exec .init s = .next { s with response := some (.ok []) })

/-- R113: DEINIT changes nothing, Ready or not, and answers OK. -/
def Obligations.DeinitChangesNothing : Prop :=
  ∀ s : State, s.fault = false → exec .deinit s = .next { s with response := some (.ok []) }

/-- R151, R152: OCC answers the count of a Ready block and changes nothing; on an Uninitialized block it
raises Fatal(UNINIT). -/
def Obligations.OccAnswersTheCount : Prop :=
  ∀ s : State, s.fault = false →
    (s.ready = true → exec .occ s = .next { s with response := some (.ok [s.count]) }) ∧
    (s.ready = false → exec .occ s =
      .next { s with fault := true, fcause := 3#8, response := some (.fatal 3#8) })

/-- R121, R186: PUT's three preconditions in their order; each changes `fault` and `fcause` only. -/
def Obligations.PutPreconditionsRaise : Prop :=
  ∀ (s : State) (src : Option (List Word)) (wc : Int), s.fault = false →
    -8388608 ≤ wc → wc ≤ 8388607 →
    (wc ≤ 0 → exec (.put src wc) s =
      .next { s with fault := true, fcause := 1#8, response := some (.fatal 1#8) }) ∧
    (0 < wc → src = none → exec (.put src wc) s =
      .next { s with fault := true, fcause := 2#8, response := some (.fatal 2#8) }) ∧
    (∀ ws, 0 < wc → src = some ws → (ws.length : Int) ≠ wc → exec (.put src wc) s =
      .next { s with fault := true, fcause := 5#8, response := some (.fatal 5#8) })

/-- R122, R124, R125, R126: what PUT does once its preconditions hold, with the implicit init. The count
grows by the bytes written and is clamped to `N`; on overflow, and only then, the read pointer moves
past the evicted bytes, modulo `N`; byte `j` of the payload goes to offset `(in_index + j) mod N`, the
last one written there staying; every other byte of storage and everything else stays; the answer is
OK. -/
def Obligations.PutAppendsAndEvicts : Prop :=
  ∀ (s : State) (ws : List Word), s.fault = false → ws ≠ [] → ws.length ≤ 8388607 →
    (s.ready = true → s.inIndex.toNat < s.params.capacity) →
    let n := s.params.capacity
    let b := ws.length * 4
    let c := if s.ready then s.count.toNat else 0
    let i := if s.ready then s.inIndex.toNat else 0
    let o := if s.ready then s.outIndex.toNat else 0
    ∃ m : Memory,
      exec (.put (some ws) ws.length) s =
        .next { s with
          ready := true, storage := m, count := BitVec.ofNat 32 (min (c + b) n),
          inIndex := BitVec.ofNat 32 ((i + b) % n),
          outIndex := BitVec.ofNat 32 (if n < c + b then (o + (c + b - n)) % n else o),
          response := some (.ok []) } ∧
      (∀ j, j < b → b ≤ j + n →
        Memory.read m ((i + j) % n) = (serialize s.params.byteOrder ws)[j]?) ∧
      (∀ a, (∀ j, j < b → (i + j) % n ≠ a) → Memory.read m a = Memory.read s.storage a)

/-- R127: a PUT of more bytes than the ring holds leaves it full, both pointers equal, and its window the
last `N` bytes of the payload. -/
def Obligations.OversizePutKeepsTheLastBytes : Prop :=
  ∀ (s : State) (ws : List Word), s.BlockInv → s.fault = false → ws.length ≤ 8388607 →
    s.params.capacity < ws.length * 4 →
    ∃ t, exec (.put (some ws) ws.length) s = .next t ∧ t.count.toNat = s.params.capacity ∧
      t.outIndex = t.inIndex ∧ t.response = some (.ok []) ∧
      t.window =
        (serialize s.params.byteOrder ws).drop (ws.length * 4 - s.params.capacity)

/-- R128 (a), (b): no PUT lowers the occupancy of a Ready ring, and none raises it above `N`. -/
def Obligations.PutNeverLowersOccupancy : Prop :=
  ∀ (s t : State) (src : Option (List Word)) (wc : Int), s.BlockInv → s.ready = true →
    exec (.put src wc) s = .next t →
    s.count.toNat ≤ t.count.toNat ∧ t.count.toNat ≤ s.params.capacity

/-- R136, R137, R186: GET's two preconditions in their order. -/
def Obligations.GetPreconditionsRaise : Prop :=
  ∀ (s : State) (wc : Int), s.fault = false → -8388608 ≤ wc → wc ≤ 8388607 →
    (wc ≤ 0 → exec (.get wc) s =
      .next { s with fault := true, fcause := 1#8, response := some (.fatal 1#8) }) ∧
    (0 < wc → s.ready = false → exec (.get wc) s =
      .next { s with fault := true, fcause := 3#8, response := some (.fatal 3#8) })

/-- R138, R181: a GET of more bytes than are resident is answered ERR_NODATA and changes nothing. -/
def Obligations.GetWithoutDataChangesNothing : Prop :=
  ∀ (s : State) (wc : Int), s.fault = false → s.ready = true → 0 < wc → wc ≤ 8388607 →
    (s.count.toNat : Int) < 4 * wc → exec (.get wc) s = .next { s with response := some .errNoData }

/-- R139, R140, R141: a GET that finds its bytes returns the oldest of them as words, moves the read
pointer past them modulo `N`, lowers the count by them, and changes nothing else: storage is not modified.
(`epoch` is no state of the spec's: it numbers the free contents of stale bytes, log entry 24.) -/
def Obligations.GetReturnsTheOldestWords : Prop :=
  ∀ (s : State) (k : Nat), s.fault = false → s.ready = true → 0 < k → k ≤ 8388607 →
    s.outIndex.toNat < s.params.capacity → 4 * k ≤ s.count.toNat →
    ∃ e, exec (.get k) s =
      .next { s with
        count := BitVec.ofNat 32 (s.count.toNat - 4 * k),
        outIndex := BitVec.ofNat 32 ((s.outIndex.toNat + 4 * k) % s.params.capacity),
        response := some (.ok (wordsOf s.params.byteOrder (s.window.take (4 * k)))),
        epoch := e }

/-- R39: which command may change which state element; a command that raises Fatal changes `fault` and
`fcause` only; what is outside the block no command changes. The model's number of the free contents moves
with a GET that is answered OK only (log entry 24). -/
def Obligations.CommandsWriteOnlyTheirElements : Prop :=
  ∀ (i : Instr) (s t : State), exec i s = .next t →
    (t.params = s.params ∧ t.requesters = s.requesters ∧ t.schedule = s.schedule ∧
      t.times = s.times ∧ t.draws = s.draws) ∧
    (((∀ wc, i ≠ .get wc) ∨ (∀ data, t.response ≠ some (.ok data))) → t.epoch = s.epoch) ∧
    ((∀ src wc, i ≠ .put src wc) → t.storage = s.storage) ∧
    ((∀ src wc, i ≠ .put src wc) → i ≠ .init → t.inIndex = s.inIndex ∧ t.ready = s.ready) ∧
    ((∀ src wc, i ≠ .put src wc) → i ≠ .init → (∀ wc, i ≠ .get wc) →
      t.count = s.count ∧ t.outIndex = s.outIndex) ∧
    (t.fault = true → t.storage = s.storage ∧ t.count = s.count ∧ t.inIndex = s.inIndex ∧
      t.outIndex = s.outIndex ∧ t.ready = s.ready) ∧
    (t.fault = false → s.fault = false ∧ t.fcause = s.fcause)

/-- R54: repeating INIT, DEINIT, OCC, or a GET that was answered ERR_NODATA, has no further effect. -/
def Obligations.RepeatingIsIdempotent : Prop :=
  ∀ (i : Instr) (s t : State), exec i s = .next t →
    (i = .init ∨ i = .deinit ∨ i = .occ ∨ ((∃ wc, i = .get wc) ∧ t.response = some .errNoData)) →
    exec i t = .next t

/-- R37, R128, R141: the byte ring refines the abstract queue. A command that raises no Fatal does to the
window what R37 says, and its answer is the one R37 gives. -/
def Obligations.CommandsRefineByteQueue : Prop :=
  ∀ (i : Instr) (s t : State), s.BlockInv → exec i s = .next t → t.fault = false →
    ∃ a, t.response = some a ∧ queueStep s.params i s.queue = (t.queue, a)

/-- R143: words put into an empty ring that holds them all come back from one GET, in order. -/
def Obligations.GetReturnsWhatWasPut : Prop :=
  ∀ (s : State) (ws : List Word), s.BlockInv → s.fault = false → s.queue = [] → ws ≠ [] →
    ws.length ≤ 8388607 → ws.length * 4 ≤ s.params.capacity →
    ∃ t u, exec (.put (some ws) ws.length) s = .next t ∧ exec (.get ws.length) t = .next u ∧
      u.response = some (.ok ws) ∧ u.queue = []

/-- R143, R64: where the capacity is a multiple of 4, the words that GETs return along any sequence of
commands are a subsequence, in order, of the words resident at its start followed by the words that
PUTs wrote. -/
def Obligations.ReadsAreASubsequenceOfWrites : Prop :=
  ∀ (cmds : List Instr) (s : State), s.params.WordAligned → s.BlockInv → s.Aligned →
    (history cmds s).2.Sublist (s.residentWords ++ (history cmds s).1)

/-- R27, R142: stale bytes are observed by no command. Two blocks that agree in their registers and in the
bytes of the window, while storage differs in any way outside it (bytes never written, consumed by GET or
evicted by PUT), end every command alike: the same response, the same registers, the same window; a stop
of one is a stop of the other. How storage and the free contents stand to each other is log entry 18. -/
def Obligations.StaleBytesAreNeverObserved : Prop :=
  ∀ (i : Instr) (s : State) (m : Memory) (e : Nat),
    let t : State := { s with storage := m, epoch := e }
    s.BlockInv → t.BlockInv → t.queue = s.queue →
    (∀ s', exec i s = .next s' →
      ∃ t', exec i t = .next t' ∧ t' = { s' with storage := t'.storage, epoch := t'.epoch } ∧
        t'.queue = s'.queue) ∧
    (∀ r, exec i s = .fault r → exec i t = .fault r) ∧
    (∀ r, exec i s = .refused r → exec i t = .refused r)

/-- R27: bytes that a GET consumed have no specified value: after it each of them holds a free value of a
draw of its own, whatever was written there, and so does every byte that was stale before; the bytes that
stay in the window keep theirs, and before the first initialisation every byte is stale. The draw's number
is the model's (log entries 18 and 24). -/
def Obligations.ConsumedBytesBecomeStale : Prop :=
  (∀ (s : State) (k : Nat), s.BlockInv → s.fault = false → s.ready = true → 0 < k →
    k ≤ 8388607 → 4 * k ≤ s.count.toNat →
    let place := ringOffset s.params.capacity s.outIndex.toNat
    ∃ t, exec (.get k) s = .next t ∧ t.epoch ≠ s.epoch ∧
      (∀ j, j < 4 * k → t.byteAt (place j) = Config.staleByte t.epoch (place j)) ∧
      (∀ a, (∀ j, j < s.count.toNat → place j ≠ a) → t.byteAt a = Config.staleByte t.epoch a) ∧
      (∀ j, 4 * k ≤ j → j < s.count.toNat → t.byteAt (place j) = s.byteAt (place j))) ∧
  ∀ (s : State) (a : Nat), s.ready = false → s.byteAt a = Config.staleByte s.epoch a

/-- R27, R38: what the stale bytes hold is observed by no command: with any other free contents (log
entries 3 and 24) the whole outcome, storage included, is the same. -/
def Obligations.FreeContentsAreNeverObserved : Prop :=
  ∀ (i : Instr) (s : State) (e : Nat), s.BlockInv →
    exec i { s with epoch := e } =
      andThen (exec i s) (fun t => { t with epoch := e + (t.epoch - s.epoch) })

/-- R57: where the capacity is a multiple of 4, no sequence of commands shows the byte order: two blocks
that agree in their registers and in the words of their windows answer every command alike, and agree
again after it. -/
def Obligations.ByteOrderIsUnobservable : Prop :=
  ∀ (i : Instr) (s t s' : State), s.params.WordAligned → s.BlockInv → t.BlockInv → s.Aligned →
    SameToRequesters s t → exec i s = .next s' →
    ∃ t', exec i t = .next t' ∧ s'.response = t'.response ∧ SameToRequesters s' t'

/-- U12: a word count that fits no frame is refused by name (log entry 8). -/
def Obligations.CountsNoFrameCarriesAreRefused : Prop :=
  ∀ (s : State) (src : Option (List Word)) (wc : Int), (wc < -8388608 ∨ 8388607 < wc) →
    exec (.put src wc) s = .refused .countNotExpressible ∧
    exec (.get wc) s = .refused .countNotExpressible

/-- R11, R26: a byte access outside `0 .. N-1`, which no state with the invariant makes, is a fault
(log entry 9). -/
def Obligations.AccessOutsideStorageFaults : Prop :=
  ∀ (s : State) (k : Nat), s.fault = false → s.ready = true → 0 < k → k ≤ 8388607 →
    (s.params.capacity ≤ s.inIndex.toNat → ∀ ws : List Word, ws.length = k →
      exec (.put (some ws) k) s = .fault .storageRange) ∧
    (s.params.capacity ≤ s.outIndex.toNat → 4 * k ≤ s.count.toNat →
      exec (.get k) s = .fault .storageRange)

/-! ## Steps, the arbiter and the requesters -/

/-- R62, R91, R110: when the requester whose turn it is has a frame on its port, the step is the decoded
command's execution, with the turn used up before it and the response delivered after it; a frame that
is illegal raises its cause, unless the block is faulted. -/
def Obligations.StepRunsDecodedInstruction : Prop :=
  ∀ (s : State) (k : Nat) (r : Requester) (f : Frame), s.noResetNext → s.nextTurn = some k →
    s.requesters[k]? = some r → r.port = some f →
    (∀ i, decode f = .ok i → step s = andThen (exec i s.turnTaken) (deliver k)) ∧
    (∀ c, decode f = .error c → s.fault = false →
      step s = .next (deliver k { s.turnTaken with
        fault := true, fcause := c.code, response := some (.fatal c.code) })) ∧
    (∀ c, decode f = .error c → s.fault = true →
      step s = .next (deliver k { s.turnTaken with response := some (.fatal s.fcause) }))

/-- The frame that withFetchWord places is the one the very next step executes (log entry 6). -/
def Obligations.FetchedWordRunsNext : Prop :=
  ∀ (s : State) (nbits w : Nat) (i : Instr), decodeTableWord nbits w = some i →
    step (s.withFetchWord nbits w) =
      andThen (exec i { s.withFetchWord nbits w with schedule := s.schedule }) (deliver 0)

/-- R61, R62, R81: the answer of an executed command goes to the requester that issued it, whose port is
then free; no other requester changes. -/
def Obligations.AnswerGoesToTheIssuer : Prop :=
  ∀ (s t : State) (k : Nat) (r : Requester) (f : Frame), s.noResetNext → s.nextTurn = some k →
    s.requesters[k]? = some r → r.port = some f → step s = .next t →
    (∃ q a, t.requesters[k]? = some q ∧ q.port = none ∧ q.received = r.received ++ [a] ∧
      q.work = r.work ∧ t.response = some a) ∧
    ∀ j, j ≠ k → t.requesters[j]? = s.requesters[j]?

/-- R60, R61: the step in which a requester with nothing on its port issues a command puts that command
there and changes nothing of the block. That issuing is a step of its own, which executes nothing, is the
model's choice (log entry 17). -/
def Obligations.IssuingACommandChangesNoBlockState : Prop :=
  ∀ (s : State) (k : Nat) (r : Requester), s.noResetNext → s.nextTurn = some k →
    s.requesters[k]? = some r → r.port = none →
    ∃ t q, step s = .next t ∧ t.requesters[k]? = some q ∧ q.port.isSome = true ∧
      q.received = r.received ∧ (∀ j, j ≠ k → t.requesters[j]? = s.requesters[j]?) ∧
      t.storage = s.storage ∧ t.count = s.count ∧ t.inIndex = s.inIndex ∧
      t.outIndex = s.outIndex ∧ t.ready = s.ready ∧ t.fault = s.fault ∧ t.fcause = s.fcause

/-- R60, R211, R216: with no command on a port and none left to issue, a step changes nothing of the block
or of a requester. That the machine then still steps, using up the environment's next event, is the
model's choice (log entry 15). -/
def Obligations.IdleBlockWaits : Prop :=
  ∀ s : State, s.noResetNext →
    (∀ r ∈ s.requesters, r.port = none ∧ r.task = none ∧ r.work = []) →
    step s = .next { s with schedule := s.schedule.tail }

/-- R62: whichever requester can move, the environment can give it the turn, with any continuation. That
the environment's choices stand in the state as a schedule is the model's choice (log entry 4). -/
def Obligations.EveryRequesterCanBeNext : Prop :=
  ∀ (s : State) (k : Nat) (r : Requester), s.requesters[k]? = some r →
    (r.port.isSome = true ∨ r.task.isSome = true ∨ r.work ≠ []) →
    ∀ rest, ({ s with schedule := .turn k :: rest } : State).nextTurn = some k

/-- R65: under a weakly fair arbiter every command on a port is answered in the end, also in a run whose
requesters are supplied with further jobs without end, where without the premise a command may wait for
ever (log entries 16 and 25). -/
def Obligations.FairArbiterAnswersEveryCommand : Prop :=
  ∀ (run : Nat → State) (n k : Nat) (r : Requester), IsOpenRun run → WeaklyFair run →
    (run n).requesters[k]? = some r → r.port.isSome = true →
    ∃ m q, n < m ∧ (run m).requesters[k]? = some q ∧ q.port = none

/-- R196: at most one producer stays at most one producer. -/
def Obligations.SingleProducerIsKept : Prop :=
  ∀ s t : State, s.SingleProducer → step s = .next t → t.SingleProducer

/-- R196: requesters that only read go on to only read. -/
def Obligations.ConsumersOnlyReadIsKept : Prop :=
  ∀ (s t : State) (producer : Nat), s.ConsumersOnlyRead producer → step s = .next t →
    t.ConsumersOnlyRead producer

/-- R171, R39: the turn of a requester that only reads writes no byte of storage, moves no write
pointer, and never raises the count. -/
def Obligations.ReadersNeverAddData : Prop :=
  ∀ (s t : State) (k : Nat) (r : Requester), s.noResetNext → s.nextTurn = some k →
    s.requesters[k]? = some r → r.onlyReads = true → step s = .next t →
    t.storage = s.storage ∧ t.inIndex = s.inIndex ∧ t.ready = s.ready ∧
      t.count.toNat ≤ s.count.toNat

/-! ## The client pseudo-operations -/

/-- R161, R169: the timestamp record is `MAGIC`'s upper half and the time modulo 65536. -/
def Obligations.TimestampRecordFields : Prop :=
  ∀ (p : Params) (nowMs : Word),
    (timestampWord p nowMs).toNat = p.magicHigh.toNat * 65536 + nowMs.toNat % 65536

/-- R165: `hex8` is eight digits, digit `k` the one of nibble `7 - k`, lowercase. -/
def Obligations.HexDigitsOfAWord : Prop :=
  ∀ w : Word, (hex8 w).length = 8 ∧ ∀ k, k < 8 →
    (hex8 w)[k]? = "0123456789abcdef".toList[w.toNat / 16 ^ (7 - k) % 16]?

/-- R162, R166: the step that starts a TRACKING, in whichever place its requester stands, reads the time
source once and issues the timestamp record as a one-word PUT; the status word waits in the task for the
PUT after it. Where the environment's readings are used up, the time is a free value (log entry 14). -/
def Obligations.TrackingIssuesTheTimestamp : Prop :=
  ∀ (s : State) (k : Nat) (r : Requester) (status : Word) (jobs : List Job),
    s.noResetNext → s.nextTurn = some k → s.requesters[k]? = some r → r.port = none →
    r.task = none → r.work = .tracking status :: jobs →
    ∃ t q nowMs, step s = .next t ∧ t.requesters[k]? = some q ∧ q.work = jobs ∧
      q.port = some ⟨0x20000001#32, [timestampWord s.params nowMs]⟩ ∧
      q.task = some (.eventTime (timestampWord s.params nowMs) status) ∧
      (∀ w ts, s.times = w :: ts → nowMs = w ∧ t.times = ts) ∧
      (s.times = [] → nowMs = Config.nowMs s.turnTaken.draws ∧ t.times = [])

/-- R162, R166: TRACKING run by the only active requester is two one-word PUTs, both answered OK, that
append the timestamp record of the one time read and then the status record. Four steps are log entry
17, the time where no reading is left log entry 14. -/
def Obligations.TrackingAppendsThePair : Prop :=
  ∀ (s : State) (k : Nat) (r : Requester) (status : Word), s.BlockInv → s.fault = false →
    s.requesters[k]? = some r → s.OnlyActive k → r.port = none → r.task = none →
    r.work = [.tracking status] → (∀ e ∈ s.schedule, e ≠ .reset) →
    ∃ t q nowMs, runSteps 4 s = .next t ∧ t.requesters[k]? = some q ∧ q.port = none ∧
      q.task = none ∧ q.work = [] ∧ q.received = r.received ++ [.ok [], .ok []] ∧
      t.queue = takeLast s.params.capacity
        (s.queue ++ serialize s.params.byteOrder [timestampWord s.params nowMs, status]) ∧
      (∀ w ts, s.times = w :: ts → nowMs = w ∧ t.times = ts) ∧
      (s.times = [] → nowMs = Config.nowMs s.turnTaken.draws) ∧
      ∀ j, j ≠ k → t.requesters[j]? = s.requesters[j]?

/-- R162: RECORD_EVENT run by the only active requester, in any place, is two one-word PUTs, both answered
OK, that append the timestamp record and then the status record. Four steps are log entry 17. -/
def Obligations.RecordEventAppendsThePair : Prop :=
  ∀ (s : State) (k : Nat) (r : Requester) (status nowMs : Word), s.BlockInv → s.fault = false →
    s.requesters[k]? = some r → s.OnlyActive k → r.port = none → r.task = none →
    r.work = [.recordEvent status nowMs] → (∀ e ∈ s.schedule, e ≠ .reset) →
    ∃ t q, runSteps 4 s = .next t ∧ t.requesters[k]? = some q ∧ q.port = none ∧ q.task = none ∧
      q.work = [] ∧ q.received = r.received ++ [.ok [], .ok []] ∧
      t.queue = takeLast s.params.capacity
        (s.queue ++ serialize s.params.byteOrder [timestampWord s.params nowMs, status]) ∧
      ∀ j, j ≠ k → t.requesters[j]? = s.requesters[j]?

/-- R164, R170: DRAIN_REPORT run by the only active requester, in any place, on a Ready block takes
`n = min(max_words, count / 4)` words (none if that is negative), returns their hexadecimal digits and
`n`, and removes exactly their bytes. The number of steps is log entry 17. -/
def Obligations.DrainReportTakesWhatItReports : Prop :=
  ∀ (s : State) (k : Nat) (r : Requester) (maxWords : Int), s.BlockInv → s.fault = false →
    s.ready = true → s.requesters[k]? = some r → s.OnlyActive k → r.port = none →
    r.task = none → r.work = [.drainReport maxWords] → (∀ e ∈ s.schedule, e ≠ .reset) →
    let n := (min maxWords ((s.count.toNat / 4 : Nat) : Int)).toNat
    ∃ t q, runSteps (2 + 2 * n) s = .next t ∧ t.requesters[k]? = some q ∧ q.port = none ∧
      q.task = none ∧ q.work = [] ∧
      q.results = r.results ++ [.report ((s.residentWords.take n).flatMap hex8) n] ∧
      t.queue = s.queue.drop (4 * n) ∧ t.count.toNat = s.count.toNat - 4 * n ∧
      ∀ j, j ≠ k → t.requesters[j]? = s.requesters[j]?

/-- R167, R164: FRAME_READ run by the only active requester, in any place, on a Ready block drains at most
MAX_REPORT_WORDS words and returns the string of their hexadecimal digits, without the count. The number
of steps is log entry 17. -/
def Obligations.FrameReadDrainsUpToItsMaximum : Prop :=
  ∀ (s : State) (k : Nat) (r : Requester), s.BlockInv → s.fault = false → s.ready = true →
    s.requesters[k]? = some r → s.OnlyActive k → r.port = none → r.task = none →
    r.work = [.frameRead] → (∀ e ∈ s.schedule, e ≠ .reset) →
    let n := min s.params.maxReportWords (s.count.toNat / 4)
    ∃ t q, runSteps (2 + 2 * n) s = .next t ∧ t.requesters[k]? = some q ∧ q.port = none ∧
      q.task = none ∧ q.work = [] ∧
      q.results = r.results ++ [.frameText ((s.residentWords.take n).flatMap hex8)] ∧
      t.queue = s.queue.drop (4 * n) ∧ ∀ j, j ≠ k → t.requesters[j]? = s.requesters[j]?

/-- R168: COUNT_READ run by the only active requester, in any place, on a Ready block returns the count in
the unit of the instance and changes nothing of the ring. Two steps are log entry 17. -/
def Obligations.CountReadShowsTheCount : Prop :=
  ∀ (s : State) (k : Nat) (r : Requester), s.fault = false → s.ready = true →
    s.requesters[k]? = some r → s.OnlyActive k → r.port = none → r.task = none →
    r.work = [.countRead] → (∀ e ∈ s.schedule, e ≠ .reset) →
    ∃ t q, runSteps 2 s = .next t ∧ t.requesters[k]? = some q ∧ q.port = none ∧
      q.task = none ∧ q.work = [] ∧
      q.results = r.results ++ [.countText (match s.params.countUnit with
        | .bytes => hex8 s.count
        | .words => hex8 (BitVec.ofNat 32 (s.count.toNat / 4)))] ∧
      t.storage = s.storage ∧ t.count = s.count ∧ t.inIndex = s.inIndex ∧
      t.outIndex = s.outIndex ∧ t.ready = true ∧ t.fault = false ∧
      ∀ j, j ≠ k → t.requesters[j]? = s.requesters[j]?
end

