-- ==== Sys2Proof/Laws/Memory.lean ====
section
/-! SUPPORT. The laws of storage: a read after a write, and that every operation on it keeps the
canonical form and the address range. -/

namespace Sys2Proof.Machine

@[simp] theorem Memory.read_nil (a : Nat) : Memory.read [] a = none := rfl

theorem Memory.read_cons (c : Host.Cell) (m : Memory) (a : Nat) :
    Memory.read (c :: m) a = if c.1 = a then some c.2 else Memory.read m a := rfl

/-- Offsets below every listed one hold nothing. -/
theorem Memory.read_of_lt (m : Memory) (a : Nat) (h : ∀ c ∈ m, a < c.1) :
    Memory.read m a = none := by
  induction m with
  | nil => rfl
  | cons c m ih =>
    have hc : c.1 ≠ a := by have := h c (by simp); omega
    rw [Memory.read_cons, if_neg hc]
    exact ih fun d hd => h d (by simp [hd])

/-- The entries after a write are the written one and earlier ones. -/
theorem Memory.mem_write (m : Memory) (a : Nat) (v : Byte) (c : Host.Cell)
    (h : c ∈ Memory.write m a v) : c = (a, v) ∨ c ∈ m := by
  induction m with
  | nil => simpa [Memory.write] using h
  | cons d m ih =>
    unfold Memory.write at h
    split at h
    · simpa using h
    · split at h
      · rcases List.mem_cons.mp h with h | h
        · exact .inl h
        · exact .inr (by simp [h])
      · rcases List.mem_cons.mp h with h | h
        · exact .inr (by simp [h])
        · rcases ih h with h | h
          · exact .inl h
          · exact .inr (by simp [h])

/-- A write keeps the canonical form. -/
theorem Memory.write_wf (m : Memory) (a : Nat) (v : Byte) (h : Memory.wf m) :
    Memory.wf (Memory.write m a v) := by
  induction m with
  | nil => simp [Memory.write]
  | cons d m ih =>
    have hd := List.pairwise_cons.mp h
    unfold Memory.write
    split
    · rename_i hlt
      refine List.pairwise_cons.mpr ⟨fun c hc => ?_, h⟩
      rcases List.mem_cons.mp hc with rfl | hc
      · exact hlt
      · exact Nat.lt_trans hlt (hd.1 c hc)
    · split
      · rename_i heq
        exact List.pairwise_cons.mpr ⟨fun c hc => by have := hd.1 c hc; simpa [heq] using this, hd.2⟩
      · rename_i hlt hne
        refine List.pairwise_cons.mpr ⟨fun c hc => ?_, ih hd.2⟩
        rcases Memory.mem_write m a v c hc with rfl | hc
        · show d.1 < a
          omega
        · exact hd.1 c hc

/-- A write inside `0 .. n-1` keeps every entry inside it. -/
theorem Memory.write_lt (m : Memory) (n a : Nat) (v : Byte) (ha : a < n)
    (h : ∀ c ∈ m, c.1 < n) : ∀ c ∈ Memory.write m a v, c.1 < n := by
  intro c hc
  rcases Memory.mem_write m a v c hc with rfl | hc
  · exact ha
  · exact h c hc

/-- A read after a write: the byte written at its place, what was there before at every other. -/
theorem Memory.read_write (m : Memory) (a b : Nat) (v : Byte) :
    Memory.read (Memory.write m a v) b = if a = b then some v else Memory.read m b := by
  induction m with
  | nil => rfl
  | cons d m ih =>
    unfold Memory.write
    split
    · rw [Memory.read_cons]
    · split
      · rename_i heq
        subst heq
        rw [Memory.read_cons, Memory.read_cons]
        split <;> rfl
      · rename_i hne
        rw [Memory.read_cons, Memory.read_cons, ih]
        by_cases hd : d.1 = b
        · have : a ≠ b := fun e => hne (e.trans hd.symm)
          simp [hd, this]
        · simp [hd]

@[simp] theorem Memory.read_write_same (m : Memory) (a : Nat) (v : Byte) :
    Memory.read (Memory.write m a v) a = some v := by
  simp [Memory.read_write]

theorem Memory.read_write_other (m : Memory) (a b : Nat) (v : Byte) (h : a ≠ b) :
    Memory.read (Memory.write m a v) b = Memory.read m b := by
  simp [Memory.read_write, h]

/-- Storage at reset is canonical. -/
theorem State.reset_storage_wf : Memory.wf State.reset.storage := List.Pairwise.nil

theorem State.resetOf_storage_wf (p : Params) : Memory.wf (State.resetOf p).storage :=
  List.Pairwise.nil

end Sys2Proof.Machine
end

