-- ==== Sys2Proof/Laws/Ring.lean ====
section
/-! SUPPORT. The laws of the ring: the wraparound detector, the two copy loops, the lengths of
serialized words. Each copy loop has one law that says everything it can do. -/

namespace Sys2Proof.Machine

/-- `wrap_inc(i) == (i + 1) mod N` for `0 <= i < N` (R12). -/
theorem wrapInc_eq_mod (n i : Nat) (h : i < n) : wrapInc n i = (i + 1) % n := by
  unfold wrapInc
  split
  · rename_i e
    rw [e, Nat.mod_self]
  · rw [Nat.mod_eq_of_lt (by omega)]

theorem wrapInc_lt (n i : Nat) (h : i < n) : wrapInc n i < n := by
  rw [wrapInc_eq_mod n i h]
  exact Nat.mod_lt _ (by omega)

theorem ringOffset_lt (n i j : Nat) (h : 0 < n) : ringOffset n i j < n := Nat.mod_lt _ h

@[simp] theorem ringOffset_zero (n i : Nat) (h : i < n) : ringOffset n i 0 = i := by
  simp [ringOffset, Nat.mod_eq_of_lt h]

/-- The stale bytes are those outside the window: an offset is resident when some place below `count`
names it. -/
theorem resident_iff (s : State) (a : Nat) (h : s.outIndex.toNat < s.params.capacity) :
    s.resident a = true ↔ s.ready = true ∧ a < s.params.capacity ∧
      ∃ j, j < s.count.toNat ∧ ringOffset s.params.capacity s.outIndex.toNat j = a := by
  simp only [State.resident, Bool.and_eq_true, decide_eq_true_eq, and_assoc, ringOffset]
  refine and_congr_right fun _ => and_congr_right fun ha => ⟨fun hj => ⟨_, hj, ?_⟩, ?_⟩
  · rw [Nat.add_mod_mod, show s.outIndex.toNat + (a + s.params.capacity - s.outIndex.toNat) =
      a + s.params.capacity by omega, Nat.add_mod_right, Nat.mod_eq_of_lt ha]
  · rintro ⟨j, hj, rfl⟩
    have back : ((s.outIndex.toNat + j) % s.params.capacity + s.params.capacity -
        s.outIndex.toNat) % s.params.capacity = j % s.params.capacity := by
      rw [Nat.add_sub_assoc (Nat.le_of_lt h), Nat.mod_add_mod,
        show s.outIndex.toNat + j + (s.params.capacity - s.outIndex.toNat) =
          j + s.params.capacity by omega, Nat.add_mod_right]
    rw [back]
    exact Nat.lt_of_le_of_lt (Nat.mod_le _ _) hj

/-- A byte of the window is the byte written there last. -/
theorem byteAt_of_resident (s : State) (a : Nat) (b : Byte) (h : s.resident a = true)
    (hb : Memory.read s.storage a = some b) : s.byteAt a = b := by
  simp [State.byteAt, h, hb]

/-- A byte outside the window is a free value, whatever storage lists. -/
theorem byteAt_of_stale (s : State) (a : Nat) (h : s.resident a = false) :
    s.byteAt a = Config.staleByte s.epoch a := by
  simp [State.byteAt, State.staleAt, h]

/-- Byte `j` after one wraparound increment is byte `j + 1` before it. -/
theorem ringOffset_wrapInc (n i j : Nat) (h : i < n) :
    ringOffset n (wrapInc n i) j = ringOffset n i (j + 1) := by
  rw [wrapInc_eq_mod n i h]
  simp [ringOffset, Nat.add_comm, Nat.add_left_comm]

/-- PUT's copy loop from a pointer inside the ring never stops, ends `length` bytes further on, and
keeps the canonical form and the address range. -/
theorem copyIn_total (n : Nat) (m : Memory) (ii : Nat) (bs : List Byte) (h : ii < n) :
    ∃ m', copyIn n m ii bs = some (m', ringOffset n ii bs.length) ∧
      (Memory.wf m → Memory.wf m') ∧ ((∀ c ∈ m, c.1 < n) → ∀ c ∈ m', c.1 < n) := by
  induction bs generalizing m ii with
  | nil => exact ⟨m, by simp [copyIn, ringOffset_zero n ii h], id, id⟩
  | cons b bs ih =>
    obtain ⟨m', he, hw, hl⟩ := ih (Memory.write m ii b) (wrapInc n ii) (wrapInc_lt n ii h)
    refine ⟨m', ?_, fun w => hw (Memory.write_wf m ii b w),
      fun l => hl (Memory.write_lt m n ii b h l)⟩
    simp only [copyIn, memWrite, if_pos h, he, ringOffset_wrapInc n ii _ h, List.length_cons]

/-- PUT's copy loop from a pointer outside the ring stops, unless there is nothing to copy. -/
theorem copyIn_outside (n : Nat) (m : Memory) (ii : Nat) (b : Byte) (bs : List Byte) (h : n ≤ ii) :
    copyIn n m ii (b :: bs) = none := by
  simp [copyIn, memWrite, Nat.not_lt.mpr h]

/-- What storage holds after the copy loop: the last byte copied to an offset, or what was there. -/
theorem copyIn_read (n : Nat) (m m' : Memory) (ii e : Nat) (bs : List Byte)
    (h : copyIn n m ii bs = some (m', e)) (hi : ii < n) (a : Nat) :
    ((∀ j, j < bs.length → ringOffset n ii j ≠ a) → Memory.read m' a = Memory.read m a) ∧
    (∀ j, j < bs.length → bs.length ≤ j + n → ringOffset n ii j = a →
      Memory.read m' a = bs[j]?) := by
  induction bs generalizing m ii with
  | nil =>
    simp only [copyIn, Option.some.injEq, Prod.mk.injEq] at h
    exact ⟨fun _ => by rw [h.1], fun j hj => absurd hj (by simp)⟩
  | cons b bs ih =>
    simp only [copyIn, memWrite, if_pos hi] at h
    obtain ⟨hout, hin⟩ := ih (Memory.write m ii b) (wrapInc n ii) h (wrapInc_lt n ii hi)
    constructor
    · intro hne
      rw [hout fun j hj => by
        rw [ringOffset_wrapInc n ii j hi]
        exact hne (j + 1) (by simpa using hj)]
      refine Memory.read_write_other _ _ _ _ ?_
      have := hne 0 (by simp)
      rwa [ringOffset_zero n ii hi] at this
    · intro j hj hlast ha
      cases j with
      | zero =>
        rw [ringOffset_zero n ii hi] at ha
        have hlen : bs.length + 1 ≤ n := by simpa using hlast
        rw [hout fun j hj => ?_, ha, Memory.read_write_same]
        · rfl
        · rw [ringOffset_wrapInc n ii j hi, ← ha]
          unfold ringOffset
          intro e
          by_cases hw : ii + (j + 1) < n
          · rw [Nat.mod_eq_of_lt hw] at e
            omega
          · rw [Nat.mod_eq_sub_mod (by omega), Nat.mod_eq_of_lt (by omega)] at e
            omega
      | succ j =>
        rw [List.getElem?_cons_succ]
        refine hin j (by simpa using hj) ?_ (by rwa [ringOffset_wrapInc n ii j hi])
        simp only [List.length_cons] at hlast
        omega

/-- GET's copy loop from a pointer inside the ring: the `k` bytes from the pointer on, in order, and the
pointer `k` bytes further. -/
theorem copyOut_eq (s : State) (oi k : Nat) (h : oi < s.params.capacity) :
    copyOut s oi k =
      some ((List.range k).map (fun j => s.byteAt (ringOffset s.params.capacity oi j)),
        ringOffset s.params.capacity oi k) := by
  induction k generalizing oi with
  | zero => simp [copyOut, ringOffset_zero _ _ h]
  | succ k ih =>
    simp only [copyOut, memRead, if_pos h, ih _ (wrapInc_lt _ _ h), ringOffset_wrapInc _ _ _ h,
      List.range_succ_eq_map, List.map_cons, List.map_map, ringOffset_zero _ _ h]
    rfl

/-- GET's copy loop from a pointer outside the ring stops, unless there is nothing to copy. -/
theorem copyOut_outside (s : State) (oi k : Nat) (h : s.params.capacity ≤ oi) :
    copyOut s oi (k + 1) = none := by
  simp [copyOut, memRead, Nat.not_lt.mpr h]

@[simp] theorem bytesOf_length (o : ByteOrder) (w : Word) : (bytesOf o w).length = 4 := by
  cases o <;> rfl

theorem serialize_nil (o : ByteOrder) : serialize o [] = [] := rfl

theorem serialize_cons (o : ByteOrder) (w : Word) (ws : List Word) :
    serialize o (w :: ws) = bytesOf o w ++ serialize o ws := by
  simp [serialize]

theorem serialize_append (o : ByteOrder) (us ws : List Word) :
    serialize o (us ++ ws) = serialize o us ++ serialize o ws := by
  simp [serialize]

/-- Each word is four bytes. -/
@[simp] theorem serialize_length (o : ByteOrder) (ws : List Word) :
    (serialize o ws).length = ws.length * 4 := by
  induction ws with
  | nil => rfl
  | cons w ws ih => rw [serialize_cons, List.length_append, ih, bytesOf_length, List.length_cons]; omega

@[simp] theorem byteCount_length (ws : List Word) : byteCount ws.length = ws.length * 4 := rfl

@[simp] theorem window_length (s : State) : s.window.length = s.count.toNat := by
  simp [State.window]

end Sys2Proof.Machine
end

