-- ==== Sys2Proof/Laws/State.lean ====
section
/-! SUPPORT. What each named update of the state does to each field, so that no later proof unfolds a
record update; and what the block's registers are after State.reset. -/

namespace Sys2Proof.Machine

/-! `State.answer` -/

@[simp] theorem State.answer_params (s : State) (r : Response) :
    (s.answer r).params = s.params := rfl

@[simp] theorem State.answer_storage (s : State) (r : Response) :
    (s.answer r).storage = s.storage := rfl

@[simp] theorem State.answer_count (s : State) (r : Response) :
    (s.answer r).count = s.count := rfl

@[simp] theorem State.answer_inIndex (s : State) (r : Response) :
    (s.answer r).inIndex = s.inIndex := rfl

@[simp] theorem State.answer_outIndex (s : State) (r : Response) :
    (s.answer r).outIndex = s.outIndex := rfl

@[simp] theorem State.answer_ready (s : State) (r : Response) :
    (s.answer r).ready = s.ready := rfl

@[simp] theorem State.answer_fault (s : State) (r : Response) :
    (s.answer r).fault = s.fault := rfl

@[simp] theorem State.answer_fcause (s : State) (r : Response) :
    (s.answer r).fcause = s.fcause := rfl

@[simp] theorem State.answer_epoch (s : State) (r : Response) :
    (s.answer r).epoch = s.epoch := rfl

@[simp] theorem State.answer_response (s : State) (r : Response) :
    (s.answer r).response = some r := rfl

@[simp] theorem State.answer_requesters (s : State) (r : Response) :
    (s.answer r).requesters = s.requesters := rfl

@[simp] theorem State.answer_schedule (s : State) (r : Response) :
    (s.answer r).schedule = s.schedule := rfl

@[simp] theorem State.answer_times (s : State) (r : Response) :
    (s.answer r).times = s.times := rfl

@[simp] theorem State.answer_draws (s : State) (r : Response) :
    (s.answer r).draws = s.draws := rfl

/-! `State.raised` -/

@[simp] theorem State.raised_params (s : State) (c : Cause) :
    (s.raised c).params = s.params := rfl

@[simp] theorem State.raised_storage (s : State) (c : Cause) :
    (s.raised c).storage = s.storage := rfl

@[simp] theorem State.raised_count (s : State) (c : Cause) :
    (s.raised c).count = s.count := rfl

@[simp] theorem State.raised_inIndex (s : State) (c : Cause) :
    (s.raised c).inIndex = s.inIndex := rfl

@[simp] theorem State.raised_outIndex (s : State) (c : Cause) :
    (s.raised c).outIndex = s.outIndex := rfl

@[simp] theorem State.raised_ready (s : State) (c : Cause) :
    (s.raised c).ready = s.ready := rfl

@[simp] theorem State.raised_fault (s : State) (c : Cause) :
    (s.raised c).fault = true := rfl

@[simp] theorem State.raised_fcause (s : State) (c : Cause) :
    (s.raised c).fcause = c.code := rfl

@[simp] theorem State.raised_epoch (s : State) (c : Cause) :
    (s.raised c).epoch = s.epoch := rfl

@[simp] theorem State.raised_response (s : State) (c : Cause) :
    (s.raised c).response = some (.fatal c.code) := rfl

@[simp] theorem State.raised_requesters (s : State) (c : Cause) :
    (s.raised c).requesters = s.requesters := rfl

@[simp] theorem State.raised_schedule (s : State) (c : Cause) :
    (s.raised c).schedule = s.schedule := rfl

@[simp] theorem State.raised_times (s : State) (c : Cause) :
    (s.raised c).times = s.times := rfl

@[simp] theorem State.raised_draws (s : State) (c : Cause) :
    (s.raised c).draws = s.draws := rfl

/-! `State.doInit` -/

@[simp] theorem State.doInit_params (s : State) :
    (s.doInit).params = s.params := rfl

@[simp] theorem State.doInit_storage (s : State) :
    (s.doInit).storage = s.storage := rfl

@[simp] theorem State.doInit_count (s : State) :
    (s.doInit).count = 0#32 := rfl

@[simp] theorem State.doInit_inIndex (s : State) :
    (s.doInit).inIndex = 0#32 := rfl

@[simp] theorem State.doInit_outIndex (s : State) :
    (s.doInit).outIndex = 0#32 := rfl

@[simp] theorem State.doInit_ready (s : State) :
    (s.doInit).ready = true := rfl

@[simp] theorem State.doInit_fault (s : State) :
    (s.doInit).fault = s.fault := rfl

@[simp] theorem State.doInit_fcause (s : State) :
    (s.doInit).fcause = s.fcause := rfl

@[simp] theorem State.doInit_epoch (s : State) :
    (s.doInit).epoch = s.epoch := rfl

@[simp] theorem State.doInit_response (s : State) :
    (s.doInit).response = s.response := rfl

@[simp] theorem State.doInit_requesters (s : State) :
    (s.doInit).requesters = s.requesters := rfl

@[simp] theorem State.doInit_schedule (s : State) :
    (s.doInit).schedule = s.schedule := rfl

@[simp] theorem State.doInit_times (s : State) :
    (s.doInit).times = s.times := rfl

@[simp] theorem State.doInit_draws (s : State) :
    (s.doInit).draws = s.draws := rfl

/-! `State.commitPut` -/

@[simp] theorem State.commitPut_params (s : State) (m : Memory) (c o i : Nat) :
    (s.commitPut m c o i).params = s.params := rfl

@[simp] theorem State.commitPut_storage (s : State) (m : Memory) (c o i : Nat) :
    (s.commitPut m c o i).storage = m := rfl

@[simp] theorem State.commitPut_count (s : State) (m : Memory) (c o i : Nat) :
    (s.commitPut m c o i).count = BitVec.ofNat 32 c := rfl

@[simp] theorem State.commitPut_inIndex (s : State) (m : Memory) (c o i : Nat) :
    (s.commitPut m c o i).inIndex = BitVec.ofNat 32 i := rfl

@[simp] theorem State.commitPut_outIndex (s : State) (m : Memory) (c o i : Nat) :
    (s.commitPut m c o i).outIndex = BitVec.ofNat 32 o := rfl

@[simp] theorem State.commitPut_ready (s : State) (m : Memory) (c o i : Nat) :
    (s.commitPut m c o i).ready = s.ready := rfl

@[simp] theorem State.commitPut_fault (s : State) (m : Memory) (c o i : Nat) :
    (s.commitPut m c o i).fault = s.fault := rfl

@[simp] theorem State.commitPut_fcause (s : State) (m : Memory) (c o i : Nat) :
    (s.commitPut m c o i).fcause = s.fcause := rfl

@[simp] theorem State.commitPut_epoch (s : State) (m : Memory) (c o i : Nat) :
    (s.commitPut m c o i).epoch = s.epoch := rfl

@[simp] theorem State.commitPut_response (s : State) (m : Memory) (c o i : Nat) :
    (s.commitPut m c o i).response = s.response := rfl

@[simp] theorem State.commitPut_requesters (s : State) (m : Memory) (c o i : Nat) :
    (s.commitPut m c o i).requesters = s.requesters := rfl

@[simp] theorem State.commitPut_schedule (s : State) (m : Memory) (c o i : Nat) :
    (s.commitPut m c o i).schedule = s.schedule := rfl

@[simp] theorem State.commitPut_times (s : State) (m : Memory) (c o i : Nat) :
    (s.commitPut m c o i).times = s.times := rfl

@[simp] theorem State.commitPut_draws (s : State) (m : Memory) (c o i : Nat) :
    (s.commitPut m c o i).draws = s.draws := rfl

/-! `State.commitGet` -/

@[simp] theorem State.commitGet_params (s : State) (c o : Nat) :
    (s.commitGet c o).params = s.params := rfl

@[simp] theorem State.commitGet_storage (s : State) (c o : Nat) :
    (s.commitGet c o).storage = s.storage := rfl

@[simp] theorem State.commitGet_count (s : State) (c o : Nat) :
    (s.commitGet c o).count = BitVec.ofNat 32 c := rfl

@[simp] theorem State.commitGet_inIndex (s : State) (c o : Nat) :
    (s.commitGet c o).inIndex = s.inIndex := rfl

@[simp] theorem State.commitGet_outIndex (s : State) (c o : Nat) :
    (s.commitGet c o).outIndex = BitVec.ofNat 32 o := rfl

@[simp] theorem State.commitGet_ready (s : State) (c o : Nat) :
    (s.commitGet c o).ready = s.ready := rfl

@[simp] theorem State.commitGet_fault (s : State) (c o : Nat) :
    (s.commitGet c o).fault = s.fault := rfl

@[simp] theorem State.commitGet_fcause (s : State) (c o : Nat) :
    (s.commitGet c o).fcause = s.fcause := rfl

@[simp] theorem State.commitGet_epoch (s : State) (c o : Nat) :
    (s.commitGet c o).epoch = s.epoch + 1 := rfl

@[simp] theorem State.commitGet_response (s : State) (c o : Nat) :
    (s.commitGet c o).response = s.response := rfl

@[simp] theorem State.commitGet_requesters (s : State) (c o : Nat) :
    (s.commitGet c o).requesters = s.requesters := rfl

@[simp] theorem State.commitGet_schedule (s : State) (c o : Nat) :
    (s.commitGet c o).schedule = s.schedule := rfl

@[simp] theorem State.commitGet_times (s : State) (c o : Nat) :
    (s.commitGet c o).times = s.times := rfl

@[simp] theorem State.commitGet_draws (s : State) (c o : Nat) :
    (s.commitGet c o).draws = s.draws := rfl

/-! `State.hardwareReset` -/

@[simp] theorem State.hardwareReset_params (s : State) :
    (s.hardwareReset).params = s.params := rfl

@[simp] theorem State.hardwareReset_storage (s : State) :
    (s.hardwareReset).storage = [] := rfl

@[simp] theorem State.hardwareReset_count (s : State) :
    (s.hardwareReset).count = 0#32 := rfl

@[simp] theorem State.hardwareReset_inIndex (s : State) :
    (s.hardwareReset).inIndex = 0#32 := rfl

@[simp] theorem State.hardwareReset_outIndex (s : State) :
    (s.hardwareReset).outIndex = 0#32 := rfl

@[simp] theorem State.hardwareReset_ready (s : State) :
    (s.hardwareReset).ready = false := rfl

@[simp] theorem State.hardwareReset_fault (s : State) :
    (s.hardwareReset).fault = false := rfl

@[simp] theorem State.hardwareReset_fcause (s : State) :
    (s.hardwareReset).fcause = 0#8 := rfl

@[simp] theorem State.hardwareReset_epoch (s : State) :
    (s.hardwareReset).epoch = s.epoch + 1 := rfl

@[simp] theorem State.hardwareReset_response (s : State) :
    (s.hardwareReset).response = none := rfl

@[simp] theorem State.hardwareReset_requesters (s : State) :
    (s.hardwareReset).requesters = s.requesters := rfl

@[simp] theorem State.hardwareReset_schedule (s : State) :
    (s.hardwareReset).schedule = s.schedule := rfl

@[simp] theorem State.hardwareReset_times (s : State) :
    (s.hardwareReset).times = s.times := rfl

@[simp] theorem State.hardwareReset_draws (s : State) :
    (s.hardwareReset).draws = s.draws := rfl

/-! `State.withRequester` -/

@[simp] theorem State.withRequester_params (s : State) (k : Nat) (r : Requester) :
    (s.withRequester k r).params = s.params := rfl

@[simp] theorem State.withRequester_storage (s : State) (k : Nat) (r : Requester) :
    (s.withRequester k r).storage = s.storage := rfl

@[simp] theorem State.withRequester_count (s : State) (k : Nat) (r : Requester) :
    (s.withRequester k r).count = s.count := rfl

@[simp] theorem State.withRequester_inIndex (s : State) (k : Nat) (r : Requester) :
    (s.withRequester k r).inIndex = s.inIndex := rfl

@[simp] theorem State.withRequester_outIndex (s : State) (k : Nat) (r : Requester) :
    (s.withRequester k r).outIndex = s.outIndex := rfl

@[simp] theorem State.withRequester_ready (s : State) (k : Nat) (r : Requester) :
    (s.withRequester k r).ready = s.ready := rfl

@[simp] theorem State.withRequester_fault (s : State) (k : Nat) (r : Requester) :
    (s.withRequester k r).fault = s.fault := rfl

@[simp] theorem State.withRequester_fcause (s : State) (k : Nat) (r : Requester) :
    (s.withRequester k r).fcause = s.fcause := rfl

@[simp] theorem State.withRequester_epoch (s : State) (k : Nat) (r : Requester) :
    (s.withRequester k r).epoch = s.epoch := rfl

@[simp] theorem State.withRequester_response (s : State) (k : Nat) (r : Requester) :
    (s.withRequester k r).response = s.response := rfl

@[simp] theorem State.withRequester_requesters (s : State) (k : Nat) (r : Requester) :
    (s.withRequester k r).requesters = s.requesters.set k r := rfl

@[simp] theorem State.withRequester_schedule (s : State) (k : Nat) (r : Requester) :
    (s.withRequester k r).schedule = s.schedule := rfl

@[simp] theorem State.withRequester_times (s : State) (k : Nat) (r : Requester) :
    (s.withRequester k r).times = s.times := rfl

@[simp] theorem State.withRequester_draws (s : State) (k : Nat) (r : Requester) :
    (s.withRequester k r).draws = s.draws := rfl

/-! `State.ensureReady`: everything but the three registers and `ready` stays; it is the state itself when
Ready. -/

theorem State.ensureReady_of_ready (s : State) (h : s.ready = true) : s.ensureReady = s := by
  simp [State.ensureReady, h]

theorem State.ensureReady_of_not_ready (s : State) (h : s.ready = false) :
    s.ensureReady = s.doInit := by
  simp [State.ensureReady, h]

@[simp] theorem State.ensureReady_ready (s : State) : s.ensureReady.ready = true := by
  cases h : s.ready <;> simp [State.ensureReady, h]

@[simp] theorem State.ensureReady_params (s : State) :
    s.ensureReady.params = s.params := by
  cases h : s.ready <;> simp [State.ensureReady, h]

@[simp] theorem State.ensureReady_storage (s : State) :
    s.ensureReady.storage = s.storage := by
  cases h : s.ready <;> simp [State.ensureReady, h]

@[simp] theorem State.ensureReady_fault (s : State) :
    s.ensureReady.fault = s.fault := by
  cases h : s.ready <;> simp [State.ensureReady, h]

@[simp] theorem State.ensureReady_fcause (s : State) :
    s.ensureReady.fcause = s.fcause := by
  cases h : s.ready <;> simp [State.ensureReady, h]

@[simp] theorem State.ensureReady_epoch (s : State) :
    s.ensureReady.epoch = s.epoch := by
  cases h : s.ready <;> simp [State.ensureReady, h]

@[simp] theorem State.ensureReady_response (s : State) :
    s.ensureReady.response = s.response := by
  cases h : s.ready <;> simp [State.ensureReady, h]

@[simp] theorem State.ensureReady_requesters (s : State) :
    s.ensureReady.requesters = s.requesters := by
  cases h : s.ready <;> simp [State.ensureReady, h]

@[simp] theorem State.ensureReady_schedule (s : State) :
    s.ensureReady.schedule = s.schedule := by
  cases h : s.ready <;> simp [State.ensureReady, h]

@[simp] theorem State.ensureReady_times (s : State) :
    s.ensureReady.times = s.times := by
  cases h : s.ready <;> simp [State.ensureReady, h]

@[simp] theorem State.ensureReady_draws (s : State) :
    s.ensureReady.draws = s.draws := by
  cases h : s.ready <;> simp [State.ensureReady, h]

theorem State.ensureReady_count (s : State) :
    s.ensureReady.count = if s.ready then s.count else 0#32 := by
  cases h : s.ready <;> simp [State.ensureReady, h]

theorem State.ensureReady_inIndex (s : State) :
    s.ensureReady.inIndex = if s.ready then s.inIndex else 0#32 := by
  cases h : s.ready <;> simp [State.ensureReady, h]

theorem State.ensureReady_outIndex (s : State) :
    s.ensureReady.outIndex = if s.ready then s.outIndex else 0#32 := by
  cases h : s.ready <;> simp [State.ensureReady, h]

/-! `State.turnTaken`: only the environment's fields change. -/

@[simp] theorem State.turnTaken_params (s : State) : s.turnTaken.params = s.params := by
  unfold State.turnTaken; cases s.schedule <;> rfl

@[simp] theorem State.turnTaken_storage (s : State) : s.turnTaken.storage = s.storage := by
  unfold State.turnTaken; cases s.schedule <;> rfl

@[simp] theorem State.turnTaken_count (s : State) : s.turnTaken.count = s.count := by
  unfold State.turnTaken; cases s.schedule <;> rfl

@[simp] theorem State.turnTaken_inIndex (s : State) : s.turnTaken.inIndex = s.inIndex := by
  unfold State.turnTaken; cases s.schedule <;> rfl

@[simp] theorem State.turnTaken_outIndex (s : State) : s.turnTaken.outIndex = s.outIndex := by
  unfold State.turnTaken; cases s.schedule <;> rfl

@[simp] theorem State.turnTaken_ready (s : State) : s.turnTaken.ready = s.ready := by
  unfold State.turnTaken; cases s.schedule <;> rfl

@[simp] theorem State.turnTaken_fault (s : State) : s.turnTaken.fault = s.fault := by
  unfold State.turnTaken; cases s.schedule <;> rfl

@[simp] theorem State.turnTaken_fcause (s : State) : s.turnTaken.fcause = s.fcause := by
  unfold State.turnTaken; cases s.schedule <;> rfl

@[simp] theorem State.turnTaken_epoch (s : State) : s.turnTaken.epoch = s.epoch := by
  unfold State.turnTaken; cases s.schedule <;> rfl

@[simp] theorem State.turnTaken_response (s : State) : s.turnTaken.response = s.response := by
  unfold State.turnTaken; cases s.schedule <;> rfl

@[simp] theorem State.turnTaken_requesters (s : State) : s.turnTaken.requesters = s.requesters := by
  unfold State.turnTaken; cases s.schedule <;> rfl

@[simp] theorem State.turnTaken_times (s : State) : s.turnTaken.times = s.times := by
  unfold State.turnTaken; cases s.schedule <;> rfl

/-! `State.timeRead`: only the environment's fields change. -/

@[simp] theorem State.timeRead_params (s : State) : s.timeRead.params = s.params := by
  unfold State.timeRead; cases s.times <;> rfl

@[simp] theorem State.timeRead_storage (s : State) : s.timeRead.storage = s.storage := by
  unfold State.timeRead; cases s.times <;> rfl

@[simp] theorem State.timeRead_count (s : State) : s.timeRead.count = s.count := by
  unfold State.timeRead; cases s.times <;> rfl

@[simp] theorem State.timeRead_inIndex (s : State) : s.timeRead.inIndex = s.inIndex := by
  unfold State.timeRead; cases s.times <;> rfl

@[simp] theorem State.timeRead_outIndex (s : State) : s.timeRead.outIndex = s.outIndex := by
  unfold State.timeRead; cases s.times <;> rfl

@[simp] theorem State.timeRead_ready (s : State) : s.timeRead.ready = s.ready := by
  unfold State.timeRead; cases s.times <;> rfl

@[simp] theorem State.timeRead_fault (s : State) : s.timeRead.fault = s.fault := by
  unfold State.timeRead; cases s.times <;> rfl

@[simp] theorem State.timeRead_fcause (s : State) : s.timeRead.fcause = s.fcause := by
  unfold State.timeRead; cases s.times <;> rfl

@[simp] theorem State.timeRead_epoch (s : State) : s.timeRead.epoch = s.epoch := by
  unfold State.timeRead; cases s.times <;> rfl

@[simp] theorem State.timeRead_response (s : State) : s.timeRead.response = s.response := by
  unfold State.timeRead; cases s.times <;> rfl

@[simp] theorem State.timeRead_requesters (s : State) : s.timeRead.requesters = s.requesters := by
  unfold State.timeRead; cases s.times <;> rfl

@[simp] theorem State.timeRead_schedule (s : State) : s.timeRead.schedule = s.schedule := by
  unfold State.timeRead; cases s.times <;> rfl

/-! `State.eventTaken` -/

@[simp] theorem State.eventTaken_params (s : State) :
    s.eventTaken.params = s.params := rfl

@[simp] theorem State.eventTaken_storage (s : State) :
    s.eventTaken.storage = s.storage := rfl

@[simp] theorem State.eventTaken_count (s : State) :
    s.eventTaken.count = s.count := rfl

@[simp] theorem State.eventTaken_inIndex (s : State) :
    s.eventTaken.inIndex = s.inIndex := rfl

@[simp] theorem State.eventTaken_outIndex (s : State) :
    s.eventTaken.outIndex = s.outIndex := rfl

@[simp] theorem State.eventTaken_ready (s : State) :
    s.eventTaken.ready = s.ready := rfl

@[simp] theorem State.eventTaken_fault (s : State) :
    s.eventTaken.fault = s.fault := rfl

@[simp] theorem State.eventTaken_fcause (s : State) :
    s.eventTaken.fcause = s.fcause := rfl

@[simp] theorem State.eventTaken_epoch (s : State) :
    s.eventTaken.epoch = s.epoch := rfl

@[simp] theorem State.eventTaken_response (s : State) :
    s.eventTaken.response = s.response := rfl

@[simp] theorem State.eventTaken_requesters (s : State) :
    s.eventTaken.requesters = s.requesters := rfl

@[simp] theorem State.eventTaken_schedule (s : State) :
    s.eventTaken.schedule = s.schedule.tail := rfl

@[simp] theorem State.eventTaken_times (s : State) :
    s.eventTaken.times = s.times := rfl

@[simp] theorem State.eventTaken_draws (s : State) :
    s.eventTaken.draws = s.draws := rfl

/-! `jobStarted`, `issue` and `deliver`: the requesters and the environment's fields are all that changes. -/

@[simp] theorem jobStarted_params (s : State) (j : Job) : (jobStarted s j).params = s.params := by
  cases j <;> simp [jobStarted]

@[simp] theorem jobStarted_storage (s : State) (j : Job) : (jobStarted s j).storage = s.storage := by
  cases j <;> simp [jobStarted]

@[simp] theorem jobStarted_count (s : State) (j : Job) : (jobStarted s j).count = s.count := by
  cases j <;> simp [jobStarted]

@[simp] theorem jobStarted_inIndex (s : State) (j : Job) : (jobStarted s j).inIndex = s.inIndex := by
  cases j <;> simp [jobStarted]

@[simp] theorem jobStarted_outIndex (s : State) (j : Job) : (jobStarted s j).outIndex = s.outIndex := by
  cases j <;> simp [jobStarted]

@[simp] theorem jobStarted_ready (s : State) (j : Job) : (jobStarted s j).ready = s.ready := by
  cases j <;> simp [jobStarted]

@[simp] theorem jobStarted_fault (s : State) (j : Job) : (jobStarted s j).fault = s.fault := by
  cases j <;> simp [jobStarted]

@[simp] theorem jobStarted_fcause (s : State) (j : Job) : (jobStarted s j).fcause = s.fcause := by
  cases j <;> simp [jobStarted]

@[simp] theorem jobStarted_epoch (s : State) (j : Job) : (jobStarted s j).epoch = s.epoch := by
  cases j <;> simp [jobStarted]

@[simp] theorem jobStarted_response (s : State) (j : Job) : (jobStarted s j).response = s.response := by
  cases j <;> simp [jobStarted]

@[simp] theorem jobStarted_requesters (s : State) (j : Job) : (jobStarted s j).requesters = s.requesters := by
  cases j <;> simp [jobStarted]

@[simp] theorem jobStarted_schedule (s : State) (j : Job) : (jobStarted s j).schedule = s.schedule := by
  cases j <;> simp [jobStarted]

@[simp] theorem issue_params (k : Nat) (r : Requester) (s : State) :
    (issue k r s).params = s.params := by
  unfold issue; split <;> [simp; (split <;> simp)]

@[simp] theorem issue_storage (k : Nat) (r : Requester) (s : State) :
    (issue k r s).storage = s.storage := by
  unfold issue; split <;> [simp; (split <;> simp)]

@[simp] theorem issue_count (k : Nat) (r : Requester) (s : State) :
    (issue k r s).count = s.count := by
  unfold issue; split <;> [simp; (split <;> simp)]

@[simp] theorem issue_inIndex (k : Nat) (r : Requester) (s : State) :
    (issue k r s).inIndex = s.inIndex := by
  unfold issue; split <;> [simp; (split <;> simp)]

@[simp] theorem issue_outIndex (k : Nat) (r : Requester) (s : State) :
    (issue k r s).outIndex = s.outIndex := by
  unfold issue; split <;> [simp; (split <;> simp)]

@[simp] theorem issue_ready (k : Nat) (r : Requester) (s : State) :
    (issue k r s).ready = s.ready := by
  unfold issue; split <;> [simp; (split <;> simp)]

@[simp] theorem issue_fault (k : Nat) (r : Requester) (s : State) :
    (issue k r s).fault = s.fault := by
  unfold issue; split <;> [simp; (split <;> simp)]

@[simp] theorem issue_fcause (k : Nat) (r : Requester) (s : State) :
    (issue k r s).fcause = s.fcause := by
  unfold issue; split <;> [simp; (split <;> simp)]

@[simp] theorem issue_epoch (k : Nat) (r : Requester) (s : State) :
    (issue k r s).epoch = s.epoch := by
  unfold issue; split <;> [simp; (split <;> simp)]

@[simp] theorem issue_response (k : Nat) (r : Requester) (s : State) :
    (issue k r s).response = s.response := by
  unfold issue; split <;> [simp; (split <;> simp)]

@[simp] theorem issue_schedule (k : Nat) (r : Requester) (s : State) :
    (issue k r s).schedule = s.schedule := by
  unfold issue; split <;> [simp; (split <;> simp)]

@[simp] theorem deliver_params (k : Nat) (s : State) : (deliver k s).params = s.params := by
  unfold deliver; split <;> simp

@[simp] theorem deliver_storage (k : Nat) (s : State) : (deliver k s).storage = s.storage := by
  unfold deliver; split <;> simp

@[simp] theorem deliver_count (k : Nat) (s : State) : (deliver k s).count = s.count := by
  unfold deliver; split <;> simp

@[simp] theorem deliver_inIndex (k : Nat) (s : State) : (deliver k s).inIndex = s.inIndex := by
  unfold deliver; split <;> simp

@[simp] theorem deliver_outIndex (k : Nat) (s : State) : (deliver k s).outIndex = s.outIndex := by
  unfold deliver; split <;> simp

@[simp] theorem deliver_ready (k : Nat) (s : State) : (deliver k s).ready = s.ready := by
  unfold deliver; split <;> simp

@[simp] theorem deliver_fault (k : Nat) (s : State) : (deliver k s).fault = s.fault := by
  unfold deliver; split <;> simp

@[simp] theorem deliver_fcause (k : Nat) (s : State) : (deliver k s).fcause = s.fcause := by
  unfold deliver; split <;> simp

@[simp] theorem deliver_epoch (k : Nat) (s : State) : (deliver k s).epoch = s.epoch := by
  unfold deliver; split <;> simp

@[simp] theorem deliver_response (k : Nat) (s : State) : (deliver k s).response = s.response := by
  unfold deliver; split <;> simp

@[simp] theorem deliver_schedule (k : Nat) (s : State) : (deliver k s).schedule = s.schedule := by
  unfold deliver; split <;> simp

@[simp] theorem deliver_times (k : Nat) (s : State) : (deliver k s).times = s.times := by
  unfold deliver; split <;> simp

@[simp] theorem deliver_draws (k : Nat) (s : State) : (deliver k s).draws = s.draws := by
  unfold deliver; split <;> simp

/-- A hardware reset leaves the block's seven elements as State.reset has them. -/
theorem State.hardwareReset_block (s : State) :
    s.hardwareReset.storage = (State.resetOf s.params).storage ∧
    s.hardwareReset.count = (State.resetOf s.params).count ∧
    s.hardwareReset.inIndex = (State.resetOf s.params).inIndex ∧
    s.hardwareReset.outIndex = (State.resetOf s.params).outIndex ∧
    s.hardwareReset.ready = (State.resetOf s.params).ready ∧
    s.hardwareReset.fault = (State.resetOf s.params).fault ∧
    s.hardwareReset.fcause = (State.resetOf s.params).fcause :=
  ⟨rfl, rfl, rfl, rfl, rfl, rfl, rfl⟩

end Sys2Proof.Machine
end

