-- ==== Sys2Proof/Laws/Step.lean ====
section
/-! SUPPORT. What the shared operations of a command and of a step can do, said once. -/

namespace Sys2Proof.Machine

/-- The common prologue of a block that is not faulted is the command itself. -/
theorem unlessFaulted_of_not_fault (s : State) (o : Host.Outcome State Fault Refusal)
    (h : s.fault = false) : unlessFaulted s o = o := by
  simp [unlessFaulted, h]

/-- A faulted block answers the stored cause and changes nothing else. -/
theorem unlessFaulted_of_fault (s : State) (o : Host.Outcome State Fault Refusal)
    (h : s.fault = true) : unlessFaulted s o = .next (s.answer (.fatal s.fcause)) := by
  simp [unlessFaulted, h, respond]

/-- If the outcome with a change after it is a next state, so is the outcome. -/
theorem andThen_next (o : Host.Outcome State Fault Refusal) (f : State → State) (t : State)
    (h : andThen o f = .next t) : ∃ u, o = .next u ∧ t = f u := by
  cases o with
  | next u =>
    simp only [andThen, Host.Outcome.next.injEq] at h
    exact ⟨u, rfl, h.symm⟩
  | fault r => simp [andThen] at h
  | refused r => simp [andThen] at h

/-- PUT past its checks, from a write pointer inside the ring: the copy loop's storage, and the commit
of R123. -/
theorem putWords_eq (s : State) (ws : List Word) (h : s.inIndex.toNat < s.params.capacity) :
    ∃ m, copyIn s.params.capacity s.storage s.inIndex.toNat (serialize s.params.byteOrder ws) =
        some (m, ringOffset s.params.capacity s.inIndex.toNat (ws.length * 4)) ∧
      putWords s ws =
        .next ((s.commitPut m (putCount s.params.capacity s.count.toNat (ws.length * 4))
          (putOut s.params.capacity s.count.toNat s.outIndex.toNat (ws.length * 4))
          (ringOffset s.params.capacity s.inIndex.toNat (ws.length * 4))).answer (.ok [])) := by
  obtain ⟨m, hm, -, -⟩ :=
    copyIn_total s.params.capacity s.storage s.inIndex.toNat (serialize s.params.byteOrder ws) h
  rw [serialize_length] at hm
  exact ⟨m, hm, by simp only [putWords, hm, byteCount_length, respond]⟩

/-- GET past its checks, from a read pointer inside the ring. -/
theorem getWords_eq (s : State) (b : Nat) (h : s.outIndex.toNat < s.params.capacity) :
    getWords s b =
      .next ((s.commitGet (s.count.toNat - b)
          (ringOffset s.params.capacity s.outIndex.toNat b)).answer
        (.ok (wordsOf s.params.byteOrder ((List.range b).map
          (fun j => s.byteAt (ringOffset s.params.capacity s.outIndex.toNat j)))))) := by
  simp only [getWords, copyOut_eq s _ b h, respond]

/-- Who stands in the list of those that can move: the places of active requesters. -/
theorem mem_activeFrom (k n : Nat) (rs : List Requester) :
    k ∈ activeFrom n rs ↔ n ≤ k ∧ ∃ r, rs[k - n]? = some r ∧ r.active = true := by
  induction rs generalizing n with
  | nil => simp [activeFrom]
  | cons q rs ih =>
    have tail : (k ∈ activeFrom (n + 1) rs) ↔
        n < k ∧ ∃ r, (q :: rs)[k - n]? = some r ∧ r.active = true := by
      rw [ih]
      constructor
      · rintro ⟨hk, r, hr, ha⟩
        refine ⟨hk, r, ?_, ha⟩
        rw [show k - n = (k - (n + 1)) + 1 by omega, List.getElem?_cons_succ]
        exact hr
      · rintro ⟨hk, r, hr, ha⟩
        refine ⟨hk, r, ?_, ha⟩
        rw [show k - n = (k - (n + 1)) + 1 by omega, List.getElem?_cons_succ] at hr
        exact hr
    unfold activeFrom
    by_cases hq : q.active = true
    · rw [if_pos hq, List.mem_cons, tail]
      constructor
      · rintro (rfl | ⟨hk, h⟩)
        · exact ⟨Nat.le_refl _, q, by simp, hq⟩
        · exact ⟨Nat.le_of_lt hk, h⟩
      · rintro ⟨hk, h⟩
        rcases Nat.eq_or_lt_of_le hk with e | hlt
        · exact .inl e.symm
        · exact .inr ⟨hlt, h⟩
    · rw [if_neg hq, tail]
      constructor
      · rintro ⟨hk, h⟩
        exact ⟨Nat.le_of_lt hk, h⟩
      · rintro ⟨hk, r, hr, ha⟩
        rcases Nat.eq_or_lt_of_le hk with e | hlt
        · subst e
          simp only [Nat.sub_self, List.getElem?_cons_zero, Option.some.injEq] at hr
          exact absurd (hr ▸ ha) hq
        · exact ⟨hlt, r, hr, ha⟩

theorem choose_mem (p k : Nat) (l : List Nat) (h : choose p l = some k) : k ∈ l := by
  match l with
  | [] => simp [choose] at h
  | [a] => simpa [choose, eq_comm] using h
  | a :: b :: rest => exact List.mem_of_getElem? h

/-- Somebody has the turn unless there is nobody to have it. -/
theorem choose_eq_none (p : Nat) (l : List Nat) : choose p l = none ↔ l = [] := by
  match l with
  | [] => simp [choose]
  | [a] => simp [choose]
  | a :: b :: rest =>
    simp only [choose, List.getElem?_eq_none_iff, List.length_cons, reduceCtorEq, iff_false]
    have := Nat.mod_lt p (show 0 < rest.length + 2 by omega)
    omega

theorem canMove_iff (rs : List Requester) (k : Nat) :
    canMove rs k = true ↔ ∃ r, rs[k]? = some r ∧ r.active = true := by
  unfold canMove
  cases rs[k]? <;> simp

/-- The requester that a free choice selects can move. -/
theorem choose_active (p k : Nat) (rs : List Requester) (h : choose p (activeFrom 0 rs) = some k) :
    ∃ r, rs[k]? = some r ∧ r.active = true := by
  simpa using ((mem_activeFrom k 0 rs).mp (choose_mem _ _ _ h)).2

/-- The requester that has the turn can move. -/
theorem nextTurn_active (s : State) (k : Nat) (h : s.nextTurn = some k) :
    ∃ r, s.requesters[k]? = some r ∧ r.active = true := by
  unfold State.nextTurn at h
  split at h
  · split at h
    · rename_i hm
      cases h
      exact (canMove_iff _ _).mp hm
    · exact choose_active _ _ _ h
  · exact choose_active _ _ _ h
  · exact choose_active _ _ _ h

/-- Nobody has the turn exactly when no requester can move. -/
theorem nextTurn_eq_none (s : State) :
    s.nextTurn = none ↔ ∀ r ∈ s.requesters, r.active = false := by
  have hl : activeFrom 0 s.requesters = [] ↔ ∀ r ∈ s.requesters, r.active = false := by
    rw [List.eq_nil_iff_forall_not_mem]
    constructor
    · intro h r hr
      obtain ⟨k, hk⟩ := List.mem_iff_getElem?.mp hr
      by_contra ha
      exact h k ((mem_activeFrom k 0 _).mpr ⟨Nat.zero_le _, r, by simpa using hk, by simpa using ha⟩)
    · intro h k hk
      obtain ⟨-, r, hr, ha⟩ := (mem_activeFrom k 0 _).mp hk
      rw [h r (List.mem_of_getElem? hr)] at ha
      exact absurd ha (by decide)
  unfold State.nextTurn
  split
  · split
    · rename_i hm
      obtain ⟨r, hr, ha⟩ := (canMove_iff _ _).mp hm
      simp only [reduceCtorEq, false_iff, not_forall]
      exact ⟨r, List.mem_of_getElem? hr, by simp [ha]⟩
    · rw [choose_eq_none, hl]
  · rw [choose_eq_none, hl]
  · rw [choose_eq_none, hl]

/-- Where one requester alone can move, it has the turn, whatever the environment says. -/
theorem nextTurn_of_only (s : State) (k : Nat) (r : Requester) (hr : s.requesters[k]? = some r)
    (ha : r.active = true)
    (others : ∀ (j : Nat) (q : Requester), j ≠ k → s.requesters[j]? = some q → q.active = false) :
    s.nextTurn = some k := by
  cases hn : s.nextTurn with
  | none =>
    rw [(nextTurn_eq_none s).mp hn r (List.mem_of_getElem? hr)] at ha
    exact absurd ha (by decide)
  | some j =>
    obtain ⟨q, hq, hqa⟩ := nextTurn_active s j hn
    by_cases e : j = k
    · rw [e]
    · rw [others j q e hq] at hqa
      exact absurd hqa (by decide)

/-- Everything a step without a scheduled reset can do: nothing because no requester can move, a
requester issuing its next command, or the execution of the command on a requester's port. -/
theorem requesterMove_cases (s t : State) (h : requesterMove s = .next t) :
    (s.nextTurn = none ∧ t = s.eventTaken) ∨
    (∃ k r, s.nextTurn = some k ∧ s.requesters[k]? = some r ∧ r.port = none ∧
      t = issue k r s.turnTaken) ∨
    (∃ k r f u, s.nextTurn = some k ∧ s.requesters[k]? = some r ∧ r.port = some f ∧
      executeFrame f s.turnTaken = .next u ∧ t = deliver k u) := by
  unfold requesterMove at h
  cases hk : s.nextTurn with
  | none =>
    rw [hk] at h
    exact .inl ⟨rfl, by injection h with h; exact h.symm⟩
  | some k =>
    obtain ⟨r, hr, -⟩ := nextTurn_active s k hk
    simp only [hk, turn, State.turnTaken_requesters, hr] at h
    cases hp : r.port with
    | none =>
      rw [hp] at h
      exact .inr (.inl ⟨k, r, rfl, hr, hp, by injection h with h; exact h.symm⟩)
    | some f =>
      rw [hp] at h
      obtain ⟨u, hu, rfl⟩ := andThen_next _ _ _ h
      exact .inr (.inr ⟨k, r, f, u, rfl, hr, hp, hu, rfl⟩)

/-- A scheduled hardware reset is the whole step. -/
theorem step_of_reset (s : State) (h : s.schedule.head? = some .reset) :
    step s = .next s.eventTaken.hardwareReset := by
  unfold step move
  match hs : s.schedule with
  | [] => simp [hs] at h
  | .turn p :: rest => simp [hs] at h
  | .reset :: rest => rfl

/-- Any other step is a requester's move. -/
theorem step_of_no_reset (s : State) (h : s.schedule.head? ≠ some .reset) :
    step s = requesterMove s := by
  unfold step move
  match hs : s.schedule with
  | [] => rfl
  | .turn p :: rest => rfl
  | .reset :: rest => simp [hs] at h

/-- Everything one step can do. -/
theorem step_cases (s t : State) (h : step s = .next t) :
    (s.schedule.head? = some .reset ∧ t = s.eventTaken.hardwareReset) ∨
    (s.schedule.head? ≠ some .reset ∧ requesterMove s = .next t) := by
  by_cases hs : s.schedule.head? = some .reset
  · rw [step_of_reset s hs] at h
    exact .inl ⟨hs, by injection h with h; exact h.symm⟩
  · exact .inr ⟨hs, by rwa [step_of_no_reset s hs] at h⟩

end Sys2Proof.Machine
end

