-- ==== Sys2Proof/Laws/Exec.lean ====
section
/-! SUPPORT. What a command can do, said once: every next state that exec answers is one of five. -/

namespace Sys2Proof.Machine

/-- PUT's end state (R123): the window's registers and storage after the copy loop, OK. -/
def State.put (s : State) (ws : List Word) (m : Memory) (ii : Nat) : State :=
  (s.commitPut m (putCount s.params.capacity s.count.toNat (ws.length * 4))
    (putOut s.params.capacity s.count.toNat s.outIndex.toNat (ws.length * 4)) ii).answer (.ok [])

/-- GET's end state (R139): the registers past the bytes copied out, OK with their words. -/
def State.got (s : State) (bytes : List Byte) (b oi : Nat) : State :=
  (s.commitGet (s.count.toNat - b) oi).answer (.ok (wordsOf s.params.byteOrder bytes))

/-- The five things a command can do: answer and change nothing, raise Fatal, initialise, write, read. -/
inductive ExecResult (s t : State) : Instr → Prop
  | answered (i : Instr) (a : Response) (h : t = s.answer a) : ExecResult s t i
  | raised (i : Instr) (c : Cause) (nf : s.fault = false) (h : t = s.raised c) : ExecResult s t i
  | initialised (nf : s.fault = false) (nr : s.ready = false) (h : t = s.doInit.answer (.ok [])) :
      ExecResult s t .init
  | written (ws : List Word) (m : Memory) (ii : Nat) (nf : s.fault = false) (ne : ws ≠ [])
      (le : ws.length ≤ 8388607)
      (copy : copyIn s.params.capacity s.storage s.ensureReady.inIndex.toNat
        (serialize s.params.byteOrder ws) = some (m, ii))
      (h : t = s.ensureReady.put ws m ii) : ExecResult s t (.put (some ws) ws.length)
  | read (wc : Int) (bytes : List Byte) (oi : Nat) (nf : s.fault = false) (r : s.ready = true)
      (pos : 0 < wc) (le : wc ≤ 8388607) (enough : byteCount wc ≤ s.count.toNat)
      (copy : copyOut s s.outIndex.toNat (byteCount wc) = some (bytes, oi))
      (h : t = s.got bytes (byteCount wc) oi) : ExecResult s t (.get wc)

theorem wcExpressible_iff (wc : Int) :
    wcExpressible wc = true ↔ -8388608 ≤ wc ∧ wc ≤ 8388607 := by
  simp [wcExpressible]

/-- The answer of a faulted block, and the body of one that is not. -/
theorem unlessFaulted_next (s t : State) (o : Host.Outcome State Fault Refusal)
    (h : unlessFaulted s o = .next t) :
    (s.fault = true ∧ t = s.answer (.fatal s.fcause)) ∨ (s.fault = false ∧ o = .next t) := by
  cases hf : s.fault with
  | true =>
    rw [unlessFaulted_of_fault s o hf] at h
    exact .inl ⟨rfl, by injection h with h; exact h.symm⟩
  | false => exact .inr ⟨rfl, by rwa [unlessFaulted_of_not_fault s o hf] at h⟩

theorem execInit_result (s t : State) (h : execInit s = .next t) : ExecResult s t .init := by
  rcases unlessFaulted_next _ _ _ h with ⟨-, h⟩ | ⟨nf, h⟩
  · exact .answered _ _ h
  · injection h with h
    cases hr : s.ready with
    | true =>
      rw [s.ensureReady_of_ready hr] at h
      exact .answered _ _ h.symm
    | false =>
      rw [s.ensureReady_of_not_ready hr] at h
      exact .initialised nf hr h.symm

theorem execDeinit_result (s t : State) (h : execDeinit s = .next t) : ExecResult s t .deinit := by
  rcases unlessFaulted_next _ _ _ h with ⟨-, h⟩ | ⟨-, h⟩
  · exact .answered _ _ h
  · injection h with h
    exact .answered _ _ h.symm

theorem execOcc_result (s t : State) (h : execOcc s = .next t) : ExecResult s t .occ := by
  rcases unlessFaulted_next _ _ _ h with ⟨-, h⟩ | ⟨nf, h⟩
  · exact .answered _ _ h
  · split at h <;> injection h with h
    · exact .answered _ _ h.symm
    · exact .raised _ _ nf h.symm

theorem execPut_result (s t : State) (src : Option (List Word)) (wc : Int)
    (h : execPut src wc s = .next t) : ExecResult s t (.put src wc) := by
  unfold execPut at h
  split at h
  · rename_i hx
    rcases unlessFaulted_next _ _ _ h with ⟨-, he⟩ | ⟨nf, he⟩
    · exact .answered _ _ he
    · clear h
      split at he
      · injection he with he
        exact .raised _ _ nf he.symm
      · rename_i hpos
        cases src with
        | none =>
          injection he with he
          exact .raised _ _ nf he.symm
        | some ws =>
          simp only at he
          split at he
          · injection he with he
            exact .raised _ _ nf he.symm
          · rename_i hlen
            have hlen : (ws.length : Int) = wc := by simpa using hlen
            subst hlen
            have hb := (wcExpressible_iff _).mp hx
            unfold putWords at he
            simp only [State.ensureReady_params, State.ensureReady_storage] at he
            split at he
            · cases he
            · rename_i m ii hc
              injection he with he
              exact .written ws m ii nf (fun e => by simp [e] at hpos) (by omega) hc (by subst he; simp [State.put])
  · cases h

theorem execGet_result (s t : State) (wc : Int) (h : execGet wc s = .next t) :
    ExecResult s t (.get wc) := by
  unfold execGet at h
  split at h
  · rename_i hx
    rcases unlessFaulted_next _ _ _ h with ⟨-, h⟩ | ⟨nf, h⟩
    · exact .answered _ _ h
    · split at h
      · injection h with h
        exact .raised _ _ nf h.symm
      · split at h
        · rename_i hpos hr
          split at h
          · injection h with h
            exact .answered _ _ h.symm
          · rename_i hcount
            unfold getWords at h
            split at h
            · cases h
            · rename_i bytes oi hc
              injection h with h
              exact .read wc bytes oi nf hr (by omega) ((wcExpressible_iff _).mp hx).2 (by omega) hc
                h.symm
        · injection h with h
          exact .raised _ _ nf h.symm
  · cases h

/-- Everything a command can do, if it answers a next state. -/
theorem exec_result (i : Instr) (s t : State) (h : exec i s = .next t) : ExecResult s t i := by
  cases i with
  | init => exact execInit_result s t h
  | put src wc => exact execPut_result s t src wc h
  | get wc => exact execGet_result s t wc h
  | occ => exact execOcc_result s t h
  | deinit => exact execDeinit_result s t h

end Sys2Proof.Machine
end

