-- ==== Sys2Proof/Laws/Invariant.lean ====
section
/-! SUPPORT. The laws of the invariants of Safety.lean: they speak of the block and of the number of
requesters only, and a machine with one active requester gives it every turn. -/

namespace Sys2Proof.Machine

/-- The block's invariant depends on the parameters, storage, the registers and the control state
alone. -/
theorem State.BlockInv.congr {s t : State} (h : s.BlockInv) (params : t.params = s.params)
    (storage : t.storage = s.storage) (count : t.count = s.count) (inIndex : t.inIndex = s.inIndex)
    (outIndex : t.outIndex = s.outIndex) (ready : t.ready = s.ready) (fault : t.fault = s.fault)
    (fcause : t.fcause = s.fcause) : t.BlockInv := by
  refine ⟨by rw [storage]; exact h.storage_wf, by rw [storage, params]; exact h.storage_lt,
    by unfold State.CauseInv; rw [fault, fcause]; exact h.cause, fun r => ?_, ?_⟩
  · have g := h.ring (by rwa [ready] at r)
    exact ⟨by rw [count, params]; exact g.count_le, by rw [inIndex, params]; exact g.in_lt,
      by rw [outIndex, params]; exact g.out_lt,
      by rw [inIndex, outIndex, count, params]; exact g.pointers⟩
  · rw [ready, count, storage, outIndex, params]
    exact h.written

/-- Replacing a requester keeps one requester for each member of `Req`. -/
theorem State.withRequester_length (s : State) (k : Nat) (r : Requester) :
    (s.withRequester k r).requesters.length = s.requesters.length := by
  simp [State.withRequester]

/-- A requester that is active alone has the turn, whatever the environment says. -/
theorem State.OnlyActive.nextTurn {s : State} {k : Nat} (h : s.OnlyActive k) {r : Requester}
    (hr : s.requesters[k]? = some r) (ha : r.active = true) : s.nextTurn = some k := by
  refine nextTurn_of_only s k r hr ha fun j q hj hq => ?_
  obtain ⟨hp, ht, hw⟩ := h j q hj hq
  simp [Requester.active, hp, ht, hw]

/-- The others stay idle while only the requester in place `k` is replaced. -/
theorem State.OnlyActive.congr {s t : State} {k : Nat} (h : s.OnlyActive k)
    (others : ∀ j, j ≠ k → t.requesters[j]? = s.requesters[j]?) : t.OnlyActive k :=
  fun j q hj hq => h j q hj (by rwa [others j hj] at hq)

/-- Supplying nothing. -/
theorem Supplied.refl (t : State) : Supplied t t :=
  ⟨rfl, List.forall₂_same.mpr fun q _ => ⟨[], by simp⟩, List.prefix_rfl, List.prefix_rfl⟩

/-- A run is an open run in which nothing is supplied. -/
theorem IsRun.isOpenRun {run : Nat → State} (h : IsRun run) : IsOpenRun run :=
  fun n => ⟨_, h n, Supplied.refl _⟩

/-- A supply adds and takes away no requester, and touches no port. -/
theorem Supplied.requester {t u : State} (h : Supplied t u) (k : Nat) :
    (u.requesters[k]?).map Requester.port = (t.requesters[k]?).map Requester.port := by
  obtain ⟨-, w, -, -⟩ := h
  generalize t.requesters = l, u.requesters = l' at w
  induction w generalizing k with
  | nil => rfl
  | cons hd _ ih =>
    obtain ⟨jobs, rfl⟩ := hd
    cases k with
    | zero => rfl
    | succ k => exact ih k

end Sys2Proof.Machine
end

