-- ==== Sys2Proof/Laws/PerInstr.lean ====
section
/-! SUPPORT. Statements about every instruction as syntax, one lemma per constructor. The family
`OpcodeRow`: the command word that encodes a command matches that command's row of
spec/opcode_table.json (30_encoding.md R84). -/

namespace Sys2Proof.Laws.OpcodeRow

/-- The row's match and mask (R84). -/
def row (i : Instr) : Word × Word :=
  match i with
  | .init => (0x10000000#32, 0xFFFFFFFF#32)
  | .put _ _ => (0x20000000#32, 0xFF000000#32)
  | .get _ => (0x30000000#32, 0xFF000000#32)
  | .occ => (0x40000000#32, 0xFFFFFFFF#32)
  | .deinit => (0x50000000#32, 0xFFFFFFFF#32)

/-- `cw & mask == match` for the command word of the encoding. -/
def Statement (i : Instr) : Prop := (encode i).cw &&& (row i).2 = (row i).1

/-- The mask of PUT and GET leaves the opcode and the reserved bits, whatever the count. -/
theorem commandWord_mask (op : BitVec 4) (wc : BitVec 24) :
    commandWord op wc &&& 0xFF000000#32 = op ++ 0#4 ++ 0#24 := by
  have mask : (0xFF000000#32 : Word) = BitVec.allOnes 8 ++ 0#24 := by decide
  rw [mask]
  refine BitVec.eq_of_getLsbD_eq fun i hi => ?_
  unfold commandWord
  simp only [BitVec.getLsbD_and, BitVec.getLsbD_append, BitVec.getLsbD_zero,
    BitVec.getLsbD_allOnes]
  by_cases h : i < 24
  · simp [h]
  · simp [h, show i - 24 < 8 by omega]

theorem init : Statement .init := by
  show commandWord 0x1#4 0#24 &&& 0xFFFFFFFF#32 = 0x10000000#32
  decide

theorem put (src : Option (List Word)) (wc : Int) : Statement (.put src wc) :=
  commandWord_mask 0x2#4 (BitVec.ofInt 24 wc)

theorem get (wc : Int) : Statement (.get wc) := commandWord_mask 0x3#4 (BitVec.ofInt 24 wc)

theorem occ : Statement .occ := by
  show commandWord 0x4#4 0#24 &&& 0xFFFFFFFF#32 = 0x40000000#32
  decide

theorem deinit : Statement .deinit := by
  show commandWord 0x5#4 0#24 &&& 0xFFFFFFFF#32 = 0x50000000#32
  decide

end Sys2Proof.Laws.OpcodeRow
end

