-- ==== Sys2Proof/Tests/Slice0.lean ====
section
/-! SUPPORT. Tests: well-formedness, decoding of words written out from the spec, one or two vectors of
95_test_vectors.md per command, and for every statement with hypotheses a state and operands that meet
them together. -/

namespace Sys2Proof.Tests

open Sys2Proof Sys2Proof.Machine

/-! ## Small states -/

def p8 : Params := Params.withDefaults 8 (by decide) (by decide) 0x5A5A#16

/-- The 8-byte ring right after reset. -/
def fresh : State := State.resetOf p8

/-- V19's start: a full ring holding 0xAAAA0001 and 0xBBBB0002. -/
def full : State :=
  { fresh with
    ready := true, count := 8#32,
    storage := [(0, 0x01#8), (1, 0x00#8), (2, 0xAA#8), (3, 0xAA#8),
      (4, 0x02#8), (5, 0x00#8), (6, 0xBB#8), (7, 0xBB#8)] }

/-- V28's start: a full ring whose oldest word is at offset 4. -/
def wrapped : State :=
  { fresh with
    ready := true, count := 8#32, inIndex := 4#32, outIndex := 4#32,
    storage := [(0, 0x03#8), (1, 0x00#8), (2, 0xCC#8), (3, 0xCC#8),
      (4, 0x02#8), (5, 0x00#8), (6, 0xBB#8), (7, 0xBB#8)] }

/-- A faulted ring with cause BAD_COUNT (V32e). -/
def faulted : State := { full with fault := true, fcause := 1#8 }

/-- The state an outcome gives, where it gives one. -/
def after (o : Host.Outcome State Fault Refusal) : State :=
  match o with
  | .next t => t
  | .fault _ => fresh
  | .refused _ => fresh

/-- Two requesters, the first idle and the second with one job to start, and nothing scheduled. -/
def alone (s : State) (j : Job) : State :=
  { s with requesters := [Requester.idle, { Requester.idle with work := [j] }] }

theorem fresh_block : fresh.BlockInv :=
  ⟨by decide, by decide, by show fresh.fcause = 0#8; decide,
    fun h => absurd h (by decide), fun h => absurd h (by decide)⟩

theorem full_block : full.BlockInv :=
  ⟨by decide, by decide, by show full.fcause = 0#8; decide,
    fun _ => ⟨by decide, by decide, by decide, by decide⟩, fun _ => by decide⟩

theorem wrapped_block : wrapped.BlockInv :=
  ⟨by decide, by decide, by show wrapped.fcause = 0#8; decide,
    fun _ => ⟨by decide, by decide, by decide, by decide⟩, fun _ => by decide⟩

theorem full_inv : full.Inv := ⟨full_block, rfl⟩

theorem alone_block (s : State) (j : Job) (h : s.BlockInv) : (alone s j).BlockInv :=
  h.congr rfl rfl rfl rfl rfl rfl rfl rfl

theorem alone_onlyActive (s : State) (j : Job) : (alone s j).OnlyActive 1 := by
  intro n q hn hq
  match n with
  | 0 =>
    obtain rfl : Requester.idle = q := by simpa [alone] using hq
    decide
  | 1 => exact absurd rfl hn
  | n + 2 => simp [alone] at hq

theorem full_aligned : full.Aligned := fun _ => by decide

/-! ## Well-formedness: one ill-formed command for each check -/

theorem test_wf_refuses_empty_source : Instr.wf (.put (some []) 1) = false := by decide
theorem test_wf_refuses_put_count_above : Instr.wf (.put none 8388608) = false := by decide
theorem test_wf_refuses_put_count_below : Instr.wf (.put none (-8388609)) = false := by decide
theorem test_wf_refuses_get_count_above : Instr.wf (.get 8388608) = false := by decide
theorem test_wf_refuses_get_count_below : Instr.wf (.get (-8388609)) = false := by decide
theorem test_wf_takes_the_bounds :
    Instr.wf (.get 8388607) = true ∧ Instr.wf (.put none (-8388608)) = true := by decide

/-! ## Decoding, from R84's patterns of the command word written out bit by bit -/

theorem test_decode_init :
    decode ⟨0b00010000000000000000000000000000#32, []⟩ = .ok .init := by decide
theorem test_decode_put :
    decode ⟨0b00100000000000000000000000000001#32, [0x11223344#32]⟩ =
      .ok (.put (some [0x11223344#32]) 1) := by decide
theorem test_decode_put_null_most_negative :
    decode ⟨0b00100000100000000000000000000000#32, []⟩ = .ok (.put none (-8388608)) := by decide
theorem test_decode_get_minus_one :
    decode ⟨0b00110000111111111111111111111111#32, []⟩ = .ok (.get (-1)) := by decide
theorem test_decode_occ :
    decode ⟨0b01000000000000000000000000000000#32, []⟩ = .ok .occ := by decide
theorem test_decode_deinit :
    decode ⟨0b01010000000000000000000000000000#32, []⟩ = .ok .deinit := by decide
/-- V9a, V9c, V9d, V9e. -/
theorem test_decode_illegal :
    decode ⟨0x00000000#32, []⟩ = .error .illegalCmd ∧
    decode ⟨0x60000000#32, []⟩ = .error .illegalCmd ∧
    decode ⟨0x11000000#32, []⟩ = .error .illegalCmd ∧
    decode ⟨0x10000001#32, []⟩ = .error .illegalCmd := by decide
/-- V9g, V9h, V9i. -/
theorem test_decode_stray_payload :
    decode ⟨0x40000000#32, [0#32]⟩ = .error .badFrame ∧
    decode ⟨0x30000001#32, [0xAAAAAAAA#32]⟩ = .error .badFrame ∧
    decode ⟨0x31000000#32, [0xAAAAAAAA#32]⟩ = .error .illegalCmd := by decide
/-- The payload of a table word is zeros (opcode_table.json). -/
theorem test_table_word_put :
    decodeTableWord 32 0x20000002 = some (.put (some [0#32, 0#32]) 2) := by decide

/-! ## One command on a small ring -/

/-- V10. -/
theorem test_init_first_use :
    (after (exec .init fresh)).ready = true ∧
      (after (exec .init fresh)).response = some (.ok []) := by decide
/-- V11, corner case (a) of R111: INIT keeps the data of a Ready ring. -/
theorem test_init_again : (after (exec .init full)).count = 8#32 := by decide
/-- V12a. -/
theorem test_deinit_uninitialized :
    (after (exec .deinit fresh)).ready = false ∧
      (after (exec .deinit fresh)).response = some (.ok []) := by decide
/-- V19: the oldest word is evicted and its bytes are overwritten. -/
theorem test_put_overflow :
    (after (exec (.put (some [0xCCCC0003#32]) 1) full)).storage = wrapped.storage ∧
    (after (exec (.put (some [0xCCCC0003#32]) 1) full)).outIndex = 4#32 := by decide
/-- V23b: modulo, not one subtraction. -/
theorem test_put_oversize :
    (after (exec (.put (some [0xB1#32, 0xB2#32, 0xB3#32]) 3) wrapped)).outIndex = 0#32 ∧
    (after (exec (.put (some [0xB1#32, 0xB2#32, 0xB3#32]) 3) wrapped)).window =
      [0xB2#8, 0#8, 0#8, 0#8, 0xB3#8, 0#8, 0#8, 0#8] := by decide
/-- V28: the read straddles the end of storage. -/
theorem test_get_straddles :
    (after (exec (.get 2) wrapped)).response = some (.ok [0xBBBB0002#32, 0xCCCC0003#32]) ∧
    (after (exec (.get 2) wrapped)).outIndex = 4#32 := by decide
/-- V29: more than is there, and nothing is consumed. -/
theorem test_get_no_data :
    (after (exec (.get 3) full)).response = some .errNoData ∧
    (after (exec (.get 3) full)).count = 8#32 := by decide
/-- V32b. -/
theorem test_occ_full : (after (exec .occ wrapped)).response = some (.ok [8#32]) := by decide
/-- V15: never answers 0. -/
theorem test_occ_uninitialized :
    (after (exec .occ fresh)).fcause = 3#8 ∧ (after (exec .occ fresh)).fault = true := by decide
/-- V39's last frame: even an illegal frame reports the first cause. -/
theorem test_sticky_fault :
    (after (executeFrame ⟨0x60000000#32, []⟩ faulted)).response = some (.fatal 1#8) := by decide
/-- V33, V34: the timestamp words of V34a and V34c. -/
theorem test_timestamp_words :
    timestampWord p8 0x12345678#32 = 0x5A5A5678#32 ∧
    timestampWord p8 65536#32 = 0x5A5A0000#32 := by decide
/-- V38. -/
theorem test_hex8 :
    hex8 0xDEADBEEF#32 = "deadbeef".toList ∧ hex8 0x2A#32 = "0000002a".toList := by decide
/-- The first step after reset executes the word placed, whatever the parameters. -/
theorem test_first_step_after_reset :
    (after (step (State.reset.withFetchWord 32 0x10000000))).ready = true := by decide

/-! ## The hypotheses of the statements, met together -/

theorem test_hyps_InvariantHoldsAtReset :
    full.Inv ∧ Requester.idle ∈ (State.resetOf p8).requesters := ⟨full_inv, by decide⟩

theorem test_hyps_ResetEventResetsTheBlock :
    ({ full with schedule := [.reset] } : State).schedule.head? = some .reset := rfl

theorem test_hyps_StepKeepsInvariant :
    (full.withFrame (encode .occ)).Inv ∧
      step (full.withFrame (encode .occ)) = .next (after (step (full.withFrame (encode .occ)))) :=
  ⟨⟨full_block.congr rfl rfl rfl rfl rfl rfl rfl rfl, rfl⟩, rfl⟩

theorem test_hyps_StepNeverStops : full.BlockInv := full_block

theorem test_hyps_EqualPointersMeanEmptyOrFull : full.BlockInv ∧ full.ready = true :=
  ⟨full_block, rfl⟩

theorem test_hyps_StepKeepsStorageForm :
    Memory.wf (full.withFrame (putFrame [7#32])).storage ∧
      step (full.withFrame (putFrame [7#32])) =
        .next (after (step (full.withFrame (putFrame [7#32])))) := ⟨by decide, rfl⟩

theorem test_hyps_StepKeepsAlignment :
    full.params.WordAligned ∧ full.BlockInv ∧ full.Aligned ∧ step full = .next (after (step full)) :=
  ⟨by decide, full_block, full_aligned, rfl⟩

theorem test_hyps_ParametersNeverChange : step full = .next (after (step full)) := rfl

theorem test_hyps_FaultIsSticky :
    (faulted.withFrame (encode .init)).fault = true ∧
      (faulted.withFrame (encode .init)).noResetNext ∧
      step (faulted.withFrame (encode .init)) =
        .next (after (step (faulted.withFrame (encode .init)))) :=
  ⟨rfl, by unfold State.noResetNext; decide, rfl⟩

/-- Both sides of the equivalence: a step with a reset event, and one without. -/
theorem test_hyps_ReadyIsLeftByResetOnly :
    full.ready = true ∧ step full = .next (after (step full)) ∧
      (after (step { full with schedule := [.reset] })).ready = false := ⟨rfl, rfl, by decide⟩

theorem test_hyps_DecodeOfEncode : Instr.wf (.put (some [5#32]) (-8388608)) = true := by decide

theorem test_hyps_EncodeOfDecode : decode ⟨0x307FFFFF#32, []⟩ = .ok (.get 8388607) := by decide

/-- A word for each clause: the five rows, and a word of no row. -/
theorem test_hyps_CommandWordSelectsItsRow :
    (0x10000000#32 &&& 0xFFFFFFFF#32 = 0x10000000#32) ∧
    (0x20FFFFFF#32 &&& 0xFF000000#32 = 0x20000000#32) ∧
    (0x30800000#32 &&& 0xFF000000#32 = 0x30000000#32) ∧
    (0x40000000#32 &&& 0xFFFFFFFF#32 = 0x40000000#32) ∧
    (0x50000000#32 &&& 0xFFFFFFFF#32 = 0x50000000#32) ∧
    (0x10000001#32 &&& 0xFFFFFFFF#32 ≠ 0x10000000#32 ∧
      0x10000001#32 &&& 0xFF000000#32 ≠ 0x20000000#32 ∧
      0x10000001#32 &&& 0xFF000000#32 ≠ 0x30000000#32 ∧
      0x10000001#32 &&& 0xFFFFFFFF#32 ≠ 0x40000000#32 ∧
      0x10000001#32 &&& 0xFFFFFFFF#32 ≠ 0x50000000#32) := by decide

/-- Boundary words on both sides of IllegalWord: opcodes 0, 1, 5, 6, a reserved bit, a count. -/
theorem test_hyps_DecoderRejectsReservedFrames :
    IllegalWord 0x00FFFFFF#32 ∧ ¬ IllegalWord 0x10000000#32 ∧ IllegalWord 0x10000001#32 ∧
    ¬ IllegalWord 0x20FFFFFF#32 ∧ IllegalWord 0x21000000#32 ∧ ¬ IllegalWord 0x50000000#32 ∧
    IllegalWord 0x60000000#32 := by decide

theorem test_hyps_WordsSurviveSerialization : ([1#8, 2#8, 3#8] : List Byte).length < 4 := by decide

theorem test_hyps_ByteOrderOfAWord : (3 : Nat) < 4 := by decide

/-- A frame and a state for each branch of the ladder, in its order. -/
theorem test_hyps_ChecksInOrder :
    (faulted.fault = true) ∧
    (fresh.fault = false ∧ IllegalWord 0x31000000#32) ∧
    (¬ IllegalWord 0x30000001#32 ∧ (0x30000001#32 : Word).toNat / 268435456 ≠ 2) ∧
    (¬ IllegalWord 0x20000000#32 ∧ (0x20000000#32 : Word).toNat / 268435456 = 2 ∧
      signedCount 0x20000000#32 ≤ 0) ∧
    (0 < signedCount 0x20000001#32) ∧
    (((([1#32, 2#32] : List Word).length : Nat) : Int) ≠ signedCount 0x20000001#32) ∧
    ((0x40000000#32 : Word).toNat / 268435456 = 4 ∧ fresh.ready = false) ∧
    ((full.count.toNat : Int) < 4 * signedCount 0x30000003#32) ∧
    (¬ (full.count.toNat : Int) < 4 * signedCount 0x30000002#32 ∧ full.ready = true) := by decide

theorem test_hyps_InitZeroesOnFirstUseOnly :
    fresh.fault = false ∧ fresh.ready = false ∧ full.fault = false ∧ full.ready = true := by decide

theorem test_hyps_DeinitChangesNothing : fresh.fault = false := rfl

theorem test_hyps_OccAnswersTheCount :
    full.fault = false ∧ full.ready = true ∧ fresh.fault = false ∧ fresh.ready = false := by decide

/-- The three clauses at their bounds: count 0, count 1 with no source, count 1 with two words. -/
theorem test_hyps_PutPreconditionsRaise :
    fresh.fault = false ∧ (-8388608 : Int) ≤ 0 ∧ (0 : Int) ≤ 8388607 ∧
      (0 : Int) < 1 ∧ (1 : Int) ≤ 8388607 ∧ (([1#32, 2#32] : List Word).length : Int) ≠ 1 := by
  decide

theorem test_hyps_PutAppendsAndEvicts :
    full.fault = false ∧ [0xCCCC0003#32] ≠ ([] : List Word) ∧
      ([0xCCCC0003#32] : List Word).length ≤ 8388607 ∧
      (full.ready = true → full.inIndex.toNat < full.params.capacity) := by decide

theorem test_hyps_OversizePutKeepsTheLastBytes :
    wrapped.BlockInv ∧ wrapped.fault = false ∧ ([0xB1#32, 0xB2#32, 0xB3#32] : List Word).length ≤ 8388607 ∧
      wrapped.params.capacity < ([0xB1#32, 0xB2#32, 0xB3#32] : List Word).length * 4 :=
  ⟨wrapped_block, by decide, by decide, by decide⟩

theorem test_hyps_PutNeverLowersOccupancy :
    full.BlockInv ∧ full.ready = true ∧
      exec (.put (some [7#32]) 1) full = .next (after (exec (.put (some [7#32]) 1) full)) :=
  ⟨full_block, rfl, rfl⟩

/-- Both clauses: count 0, and count 1 on an Uninitialized block. -/
theorem test_hyps_GetPreconditionsRaise :
    fresh.fault = false ∧ (-8388608 : Int) ≤ 0 ∧ (0 : Int) ≤ 8388607 ∧ (0 : Int) < 1 ∧
      (1 : Int) ≤ 8388607 ∧ fresh.ready = false := by decide

theorem test_hyps_GetWithoutDataChangesNothing :
    full.fault = false ∧ full.ready = true ∧ (0 : Int) < 3 ∧ (3 : Int) ≤ 8388607 ∧
      (full.count.toNat : Int) < 4 * 3 := by decide

theorem test_hyps_GetReturnsTheOldestWords :
    wrapped.fault = false ∧ wrapped.ready = true ∧ 0 < 2 ∧ 2 ≤ 8388607 ∧
      wrapped.outIndex.toNat < wrapped.params.capacity ∧ 4 * 2 ≤ wrapped.count.toNat := by decide

theorem test_hyps_CommandsWriteOnlyTheirElements :
    exec .occ full = .next (after (exec .occ full)) := rfl

theorem test_hyps_RepeatingIsIdempotent :
    exec (.get 3) full = .next (after (exec (.get 3) full)) ∧
      (after (exec (.get 3) full)).response = some .errNoData := ⟨rfl, by decide⟩

theorem test_hyps_CommandsRefineByteQueue :
    full.BlockInv ∧ exec (.get 1) full = .next (after (exec (.get 1) full)) ∧
      (after (exec (.get 1) full)).fault = false := ⟨full_block, rfl, by decide⟩

theorem test_hyps_GetReturnsWhatWasPut :
    fresh.BlockInv ∧ fresh.fault = false ∧ fresh.queue = [] ∧ [1#32, 2#32] ≠ ([] : List Word) ∧
      ([1#32, 2#32] : List Word).length ≤ 8388607 ∧
      ([1#32, 2#32] : List Word).length * 4 ≤ fresh.params.capacity :=
  ⟨fresh_block, by decide, by decide, by decide, by decide, by decide⟩

theorem test_hyps_ReadsAreASubsequenceOfWrites :
    full.params.WordAligned ∧ full.BlockInv ∧ full.Aligned := ⟨by decide, full_block, full_aligned⟩

/-- V19's ring after its oldest word was consumed: offsets 0 to 3 are stale. -/
def consumed : State := { full with count := 4#32, outIndex := 4#32 }

/-- Another storage for the same window: one stale byte changed, three not listed at all. -/
def otherStale : Memory := [(2, 0x77#8), (4, 0x02#8), (5, 0x00#8), (6, 0xBB#8), (7, 0xBB#8)]

theorem test_hyps_StaleBytesAreNeverObserved :
    let t : State := { consumed with storage := otherStale, epoch := 9 }
    consumed.BlockInv ∧ t.BlockInv ∧ t.queue = consumed.queue ∧
      exec (.get 1) consumed = .next (after (exec (.get 1) consumed)) ∧
      exec (.get 8388608) consumed = .refused .countNotExpressible :=
  ⟨⟨by decide, by decide, by show consumed.fcause = 0#8; decide,
      fun _ => ⟨by decide, by decide, by decide, by decide⟩, fun _ => by decide⟩,
    ⟨by decide, by decide, by show consumed.fcause = 0#8; decide,
      fun _ => ⟨by decide, by decide, by decide, by decide⟩, fun _ => by decide⟩,
    by decide, rfl, rfl⟩

/-- Both clauses: a GET of one word, which leaves one word, and an Uninitialized block. -/
theorem test_hyps_ConsumedBytesBecomeStale :
    full.BlockInv ∧ full.fault = false ∧ full.ready = true ∧ 0 < 1 ∧ 1 ≤ 8388607 ∧
      4 * 1 ≤ full.count.toNat ∧ 4 * 1 ≤ 4 ∧ 4 < full.count.toNat ∧ fresh.ready = false :=
  ⟨full_block, by decide⟩

/-- R27: which bytes are stale after a GET: the four consumed ones, though storage still lists them
(R140). -/
theorem test_get_makes_stale :
    (List.range 8).map (after (exec (.get 1) full)).resident =
      [false, false, false, false, true, true, true, true] ∧
    (after (exec (.get 1) full)).storage = full.storage := by decide

theorem test_hyps_FreeContentsAreNeverObserved : full.BlockInv := full_block

/-- V19's ring and the same ring in the other byte order (P1's images). -/
def fullBig : State :=
  { full with
    params := { p8 with byteOrder := .big }
    storage := [(0, 0xAA#8), (1, 0xAA#8), (2, 0x00#8), (3, 0x01#8),
      (4, 0xBB#8), (5, 0xBB#8), (6, 0x00#8), (7, 0x02#8)] }

theorem test_hyps_ByteOrderIsUnobservable :
    full.params.WordAligned ∧ full.BlockInv ∧ fullBig.BlockInv ∧ full.Aligned ∧
      SameToRequesters full fullBig ∧ exec (.get 2) full = .next (after (exec (.get 2) full)) :=
  ⟨by decide, full_block,
    ⟨by decide, by decide, by show fullBig.fcause = 0#8; decide,
      fun _ => ⟨by decide, by decide, by decide, by decide⟩, fun _ => by decide⟩,
    full_aligned, ⟨rfl, rfl, rfl, rfl, rfl, rfl, rfl, by decide⟩, rfl⟩

theorem test_hyps_CountsNoFrameCarriesAreRefused :
    (8388608 : Int) < -8388608 ∨ (8388607 : Int) < 8388608 := by decide

/-- A state no run reaches: both pointers at `N`. -/
theorem test_hyps_AccessOutsideStorageFaults :
    let s : State := { full with inIndex := 8#32, outIndex := 8#32 }
    s.fault = false ∧ s.ready = true ∧ 0 < 1 ∧ 1 ≤ 8388607 ∧ s.params.capacity ≤ s.inIndex.toNat ∧
      s.params.capacity ≤ s.outIndex.toNat ∧ 4 * 1 ≤ s.count.toNat := by decide

/-- Legal, illegal, and illegal on a faulted block. -/
theorem test_hyps_StepRunsDecodedInstruction :
    (full.withFrame (encode .occ)).noResetNext ∧ (full.withFrame (encode .occ)).nextTurn = some 0 ∧
    (full.withFrame (encode .occ)).requesters[0]? =
      some (Requester.idle.issuing (.command (encode .occ))) ∧
    (Requester.idle.issuing (.command (encode .occ))).port = some (encode .occ) ∧
    decode (encode .occ) = .ok .occ ∧ decode ⟨0x60000000#32, []⟩ = .error .illegalCmd ∧
    full.fault = false ∧ faulted.fault = true :=
  ⟨by unfold State.noResetNext; decide, by decide, by decide, by decide, by decide, by decide,
    by decide, by decide⟩

theorem test_hyps_FetchedWordRunsNext : decodeTableWord 32 0x40000000 = some .occ := by decide

theorem test_hyps_AnswerGoesToTheIssuer :
    (full.withFrame (encode .occ)).noResetNext ∧ (full.withFrame (encode .occ)).nextTurn = some 0 ∧
    (full.withFrame (encode .occ)).requesters[0]? =
      some (Requester.idle.issuing (.command (encode .occ))) ∧
    (Requester.idle.issuing (.command (encode .occ))).port = some (encode .occ) ∧
    step (full.withFrame (encode .occ)) = .next (after (step (full.withFrame (encode .occ)))) :=
  ⟨by unfold State.noResetNext; decide, by decide, by decide, by decide, rfl⟩

theorem test_hyps_IssuingACommandChangesNoBlockState :
    (alone full .countRead).noResetNext ∧ (alone full .countRead).nextTurn = some 1 ∧
    (alone full .countRead).requesters[1]? = some { Requester.idle with work := [.countRead] } ∧
    Requester.idle.port = none :=
  ⟨by unfold State.noResetNext; decide, by decide, by decide, by decide⟩

theorem test_hyps_IdleBlockWaits :
    full.noResetNext ∧ ∀ r ∈ full.requesters, r.port = none ∧ r.task = none ∧ r.work = [] :=
  ⟨by unfold State.noResetNext; decide, by decide⟩

/-- The second of two requesters that both have a job. -/
theorem test_hyps_EveryRequesterCanBeNext :
    ((fresh.withJob 0 .countRead).withJob 1 .frameRead).requesters[1]? =
        some { Requester.idle with work := [.frameRead] } ∧
      ([.frameRead] : List Job) ≠ [] := by decide

/-- One requester with INIT on its port; from the next state on nobody has anything to do. -/
def oneCommandRun : Nat → State
  | 0 => { fresh.withFrame (encode .init) with requesters := [Requester.idle.issuing (.command (encode .init))] }
  | _ + 1 => after (step { fresh.withFrame (encode .init) with
      requesters := [Requester.idle.issuing (.command (encode .init))] })

theorem test_hyps_FairArbiterAnswersEveryCommand :
    IsOpenRun oneCommandRun ∧ WeaklyFair oneCommandRun ∧
      (oneCommandRun 0).requesters[0]? = some (Requester.idle.issuing (.command (encode .init))) ∧
      (Requester.idle.issuing (.command (encode .init))).port.isSome = true := by
  refine ⟨IsRun.isOpenRun fun n => ?_, fun n k h => ?_, by decide, by decide⟩
  · cases n <;> rfl
  · obtain ⟨r, hr, hp⟩ := h (n + 1) (Nat.le_succ n)
    have hq : (oneCommandRun (n + 1)).requesters = (oneCommandRun 1).requesters := rfl
    rw [hq] at hr
    have none_left : ∀ q ∈ (oneCommandRun 1).requesters, q.port.isSome = false := by decide
    rw [none_left r (List.mem_of_getElem? hr)] at hp
    exact absurd hp (by decide)

/-- One more OCC for requester 0 and the next turn for it: what the starving run supplies after a step. -/
def moreForFirst (t : State) : State :=
  { t.withJob 0 (.command (encode .occ)) with schedule := t.schedule ++ [.turn 0] }

/-- Both requesters have a command pending or to issue, and the turn is requester 0's. -/
def Starving (s : State) : Prop :=
  s.schedule = [.turn 0] ∧ s.ready = true ∧ s.fault = false ∧ ∃ a b : Requester,
    s.requesters = [a, b] ∧ b.port.isSome = true ∧ a.work ≠ [] ∧
    (∀ j ∈ a.work, j = .command (encode .occ)) ∧
    ((a.port = none ∧ a.task = none) ∨
      (a.port = some (encode .occ) ∧ a.task = some (.command (encode .occ))))

/-- The start: a full ring, an OCC for requester 0 and an OCC on requester 1's port. -/
def starvingRun : Nat → State
  | 0 => { full with
      requesters := [{ Requester.idle with work := [.command (encode .occ)] },
        Requester.idle.issuing (.command (encode .occ))],
      schedule := [.turn 0] }
  | n + 1 => moreForFirst (after (step (starvingRun n)))

theorem starving_turn (s : State) (h : Starving s) : s.nextTurn = some 0 := by
  obtain ⟨hs, -, -, a, b, hq, -, hw, -⟩ := h
  have : a.active = true := by
    cases e : a.work with
    | nil => exact absurd e hw
    | cons j rest => simp [Requester.active, e]
  simp [State.nextTurn, hs, canMove, hq, this]

theorem starving_step (s : State) (h : Starving s) :
    ∃ t, step s = .next t ∧ Supplied t (moreForFirst t) ∧ Starving (moreForFirst t) := by
  have hn := starving_turn s h
  obtain ⟨hs, hr, hf, a, b, hq, hb, hw, hj, hp⟩ := h
  rw [step_of_no_reset s (by simp [hs])]
  have ht : s.turnTaken = { s with schedule := [] } := by simp [State.turnTaken, hs]
  rcases hp with ⟨hp, hk⟩ | ⟨hp, hk⟩
  · obtain ⟨j, rest, e⟩ := List.exists_cons_of_ne_nil hw
    obtain rfl := hj j (by simp [e])
    refine ⟨{ s with
      requesters := [{ a with work := rest }.issuing (.command (encode .occ)), b],
      schedule := [] }, ?_, ?_, ?_⟩
    · simp [requesterMove, hn, turn, ht, hq, hp, issue, hk, e, jobStarted, jobTask,
        State.withRequester]
    · refine ⟨rfl, ?_, by simp [moreForFirst], by simp [moreForFirst, State.withJob,
        State.withRequester]⟩
      simp [moreForFirst, State.withJob, State.withRequester]
      exact ⟨[], by simp⟩
    · refine ⟨rfl, hr, hf, _, b, rfl, hb, by simp [Requester.issuing], ?_, .inr ⟨rfl, rfl⟩⟩
      intro j hm
      simp only [Requester.issuing, List.mem_append, List.mem_singleton] at hm
      exact hm.elim (fun h => hj j (by simp [e, h])) id
  · refine ⟨{ s with
      requesters := [{ a with port := none, task := none, received := a.received ++ [.ok [s.count]] }, b],
      schedule := [], response := some (.ok [s.count]) }, ?_, ?_, ?_⟩
    · have hd : decode (encode .occ) = .ok .occ := by decide
      simp [requesterMove, hn, turn, ht, hq, hp, executeFrame, hd, exec, execOcc, unlessFaulted, hf,
        hr, respond, State.answer, andThen, deliver, Requester.answered, hk, taskAnswered,
        State.withRequester]
    · refine ⟨rfl, ?_, by simp [moreForFirst], by simp [moreForFirst, State.withJob,
        State.withRequester]⟩
      simp [moreForFirst, State.withJob, State.withRequester]
      exact ⟨[], by simp⟩
    · refine ⟨rfl, hr, hf, _, b, rfl, hb, by simp, ?_, .inl ⟨rfl, rfl⟩⟩
      intro j hm
      simp only [List.mem_append, List.mem_singleton] at hm
      exact hm.elim (hj j) id

/-- U7: where a requester is supplied without end, another's pending command need never be granted, so
WeaklyFair is a premise that a run can fail. -/
theorem test_starvation :
    IsOpenRun starvingRun ∧
      (∀ n, ((starvingRun n).requesters[1]?.bind Requester.port).isSome = true) ∧
      ¬ WeaklyFair starvingRun := by
  have all : ∀ n, Starving (starvingRun n) := by
    intro n
    induction n with
    | zero => exact ⟨rfl, rfl, rfl, _, _, rfl, rfl, by decide, by decide, .inl ⟨rfl, rfl⟩⟩
    | succ n ih =>
      obtain ⟨t, ht, -, h⟩ := starving_step _ ih
      show Starving (moreForFirst (after (step (starvingRun n))))
      rw [ht]
      exact h
  refine ⟨fun n => ?_, fun n => ?_, fun fair => ?_⟩
  · obtain ⟨t, ht, hsup, -⟩ := starving_step _ (all n)
    refine ⟨t, ht, ?_⟩
    show Supplied t (moreForFirst (after (step (starvingRun n))))
    rw [ht]
    exact hsup
  · obtain ⟨-, -, -, a, b, hq, hb, -⟩ := all n
    rw [hq]
    exact hb
  · obtain ⟨m, -, -, h⟩ := fair 0 1 fun m _ => by
      obtain ⟨-, -, -, a, b, hq, hb, -⟩ := all m
      exact ⟨b, by rw [hq]; rfl, hb⟩
    rw [starving_turn _ (all m)] at h
    cases h

/-- Requester 0 records events, requester 1 reads. -/
def producerAndConsumer : State := (fresh.withJob 0 (.recordEvent 5#32 6#32)).withJob 1 .frameRead

theorem test_hyps_SingleProducerIsKept :
    producerAndConsumer.SingleProducer ∧
      step { producerAndConsumer with schedule := [.turn 0] } =
        .next (after (step { producerAndConsumer with schedule := [.turn 0] })) := by
  refine ⟨fun j k r q hj hk hr hq => ?_, rfl⟩
  have only : ∀ i r, producerAndConsumer.requesters[i]? = some r → r.writes = true → i = 0 := by
    intro i r hi hw
    match i with
    | 0 => rfl
    | 1 =>
      have : r = { Requester.idle with work := [.frameRead] } := by
        have e : producerAndConsumer.requesters[1]? =
          some { Requester.idle with work := [.frameRead] } := by decide
        rw [e] at hi
        exact (Option.some.inj hi).symm
      subst this
      exact absurd hw (by decide)
    | i + 2 =>
      have e : producerAndConsumer.requesters[i + 2]? = none := by
        rw [List.getElem?_eq_none_iff]
        show 2 ≤ i + 2
        omega
      rw [e] at hi
      exact absurd hi (by simp)
  rw [only j r hj hr, only k q hk hq]

theorem test_hyps_ConsumersOnlyReadIsKept :
    producerAndConsumer.ConsumersOnlyRead 0 ∧
      step { producerAndConsumer with schedule := [.turn 1] } =
        .next (after (step { producerAndConsumer with schedule := [.turn 1] })) := by
  refine ⟨fun k r hk hne => ?_, rfl⟩
  match k with
  | 0 => exact absurd rfl hne
  | 1 =>
    have e : producerAndConsumer.requesters[1]? =
      some { Requester.idle with work := [.frameRead] } := by decide
    rw [e] at hk
    rw [← Option.some.inj hk]
    decide
  | k + 2 =>
    have e : producerAndConsumer.requesters[k + 2]? = none := by
      rw [List.getElem?_eq_none_iff]
      show 2 ≤ k + 2
      omega
    rw [e] at hk
    exact absurd hk (by simp)

theorem test_hyps_ReadersNeverAddData :
    (full.withFrame (encode (.get 1))).noResetNext ∧
    (full.withFrame (encode (.get 1))).nextTurn = some 0 ∧
    (full.withFrame (encode (.get 1))).requesters[0]? =
      some (Requester.idle.issuing (.command (encode (.get 1)))) ∧
    (Requester.idle.issuing (.command (encode (.get 1)))).onlyReads = true ∧
    step (full.withFrame (encode (.get 1))) =
      .next (after (step (full.withFrame (encode (.get 1))))) :=
  ⟨by unfold State.noResetNext; decide, by decide, by decide, by decide, rfl⟩

/-- Both clauses on the time source: a reading to come, and none left. -/
theorem test_hyps_TrackingIssuesTheTimestamp :
    let u : State := alone fresh (.tracking 0xDEADBEEF#32)
    let s : State := { u with times := [12345#32] }
    s.noResetNext ∧ s.nextTurn = some 1 ∧
      s.requesters[1]? = some { Requester.idle with work := [.tracking 0xDEADBEEF#32] } ∧
      Requester.idle.port = none ∧ Requester.idle.task = none ∧ s.times = [12345#32] ∧
      u.noResetNext ∧ u.nextTurn = some 1 ∧ u.times = [] :=
  ⟨by unfold State.noResetNext; decide, by decide, rfl, rfl, rfl, rfl,
    by unfold State.noResetNext; decide, by decide, rfl⟩

theorem test_hyps_TrackingAppendsThePair :
    let u : State := alone fresh (.tracking 0xDEADBEEF#32)
    let s : State := { u with times := [12345#32] }
    s.BlockInv ∧ u.BlockInv ∧ s.fault = false ∧
      s.requesters[1]? = some { Requester.idle with work := [.tracking 0xDEADBEEF#32] } ∧
      s.OnlyActive 1 ∧ u.OnlyActive 1 ∧ Requester.idle.port = none ∧
      Requester.idle.task = none ∧ (∀ e ∈ s.schedule, e ≠ .reset) ∧ s.times = [12345#32] ∧
      u.times = [] :=
  ⟨fresh_block.congr rfl rfl rfl rfl rfl rfl rfl rfl, alone_block _ _ fresh_block, rfl, rfl,
    alone_onlyActive fresh _, alone_onlyActive fresh _, rfl, rfl, by decide, rfl, rfl⟩

/-- V34's shape: the status word is what the second PUT appends. -/
theorem test_tracking_second_put :
    (after (runSteps 3 { alone fresh (.tracking 0xDEADBEEF#32) with times := [12345#32] })
      ).requesters[1]?.map Requester.port = some (some ⟨0x20000001#32, [0xDEADBEEF#32]⟩) := by
  decide

theorem test_hyps_RecordEventAppendsThePair :
    let s : State := alone fresh (.recordEvent 0xDEADBEEF#32 12345#32)
    s.BlockInv ∧ s.fault = false ∧
      s.requesters[1]? = some { Requester.idle with work := [.recordEvent 0xDEADBEEF#32 12345#32] } ∧
      s.OnlyActive 1 ∧ Requester.idle.port = none ∧ Requester.idle.task = none ∧
      ∀ e ∈ s.schedule, e ≠ .reset :=
  ⟨alone_block _ _ fresh_block, rfl, rfl, alone_onlyActive _ _, rfl, rfl, by decide⟩

/-- A drain of one word and a drain of a negative number, of a full ring. -/
theorem test_hyps_DrainReportTakesWhatItReports :
    let s : State := alone full (.drainReport 1)
    s.BlockInv ∧ s.fault = false ∧ s.ready = true ∧
      s.requesters[1]? = some { Requester.idle with work := [.drainReport 1] } ∧
      s.OnlyActive 1 ∧ Requester.idle.port = none ∧ Requester.idle.task = none ∧
      (∀ e ∈ s.schedule, e ≠ .reset) ∧
      (min (1 : Int) ((s.count.toNat / 4 : Nat) : Int)).toNat = 1 ∧
      (min (-5 : Int) ((s.count.toNat / 4 : Nat) : Int)).toNat = 0 :=
  ⟨alone_block _ _ full_block, rfl, rfl, rfl, alone_onlyActive _ _, rfl, rfl, by decide, by decide,
    by decide⟩

theorem test_hyps_FrameReadDrainsUpToItsMaximum :
    let s : State := alone full .frameRead
    s.BlockInv ∧ s.fault = false ∧ s.ready = true ∧
      s.requesters[1]? = some { Requester.idle with work := [.frameRead] } ∧
      s.OnlyActive 1 ∧ Requester.idle.port = none ∧ Requester.idle.task = none ∧
      ∀ e ∈ s.schedule, e ≠ .reset :=
  ⟨alone_block _ _ full_block, rfl, rfl, rfl, alone_onlyActive _ _, rfl, rfl, by decide⟩

theorem test_hyps_CountReadShowsTheCount :
    let s : State := alone full .countRead
    s.fault = false ∧ s.ready = true ∧
      s.requesters[1]? = some { Requester.idle with work := [.countRead] } ∧
      s.OnlyActive 1 ∧ Requester.idle.port = none ∧ Requester.idle.task = none ∧
      ∀ e ∈ s.schedule, e ≠ .reset :=
  ⟨rfl, rfl, rfl, alone_onlyActive _ _, rfl, rfl, by decide⟩

end Sys2Proof.Tests
end

/-! # The statements of 00_scope.md: what every step keeps, and the bytes of a word -/

namespace Sys2Proof.Machine

/-! ## What one step does to the block -/

/-- `t` has the block of `s` and as many requesters: only the response port, the requesters' own
variables and the environment's inputs may differ. -/
structure SameBlock (s t : State) : Prop where
  params : t.params = s.params
  storage : t.storage = s.storage
  count : t.count = s.count
  inIndex : t.inIndex = s.inIndex
  outIndex : t.outIndex = s.outIndex
  ready : t.ready = s.ready
  fault : t.fault = s.fault
  fcause : t.fcause = s.fcause
  members : t.requesters.length = s.requesters.length

theorem sameBlock_answer (s : State) (a : Response) : SameBlock s (s.answer a) := by
  constructor <;> rfl

theorem sameBlock_eventTaken (s : State) : SameBlock s s.eventTaken := by
  constructor <;> rfl

theorem sameBlock_turnTaken (s : State) : SameBlock s s.turnTaken := by
  constructor <;> simp

theorem issue_requesters_length (k : Nat) (r : Requester) (s : State) :
    (issue k r s).requesters.length = s.requesters.length := by
  unfold issue
  split
  · simp
  · split <;> simp

theorem sameBlock_issue (k : Nat) (r : Requester) (s : State) : SameBlock s (issue k r s) := by
  constructor <;> simp [issue_requesters_length]

theorem deliver_requesters_length (k : Nat) (s : State) :
    (deliver k s).requesters.length = s.requesters.length := by
  unfold deliver
  split <;> simp

theorem sameBlock_deliver (k : Nat) (s : State) : SameBlock s (deliver k s) := by
  constructor <;> simp [deliver_requesters_length]

/-- An executed frame does one of the five things a command can do, an illegal one too. -/
theorem executeFrame_result (f : Frame) (s t : State) (h : executeFrame f s = .next t) :
    ∃ i, ExecResult s t i := by
  unfold executeFrame at h
  split at h
  · rcases unlessFaulted_next _ _ _ h with ⟨-, h⟩ | ⟨nf, h⟩
    · exact ⟨.init, .answered _ _ h⟩
    · injection h with h
      exact ⟨.init, .raised _ _ nf h.symm⟩
  · exact ⟨_, exec_result _ _ _ h⟩

/-- How an invariant of the block is proved: it speaks of the block alone, and the hardware reset and
every command keep it. -/
theorem step_keeps {P : State → Prop} (congr : ∀ {s t}, SameBlock s t → P s → P t)
    (reset : ∀ {s}, P s → P s.hardwareReset)
    (command : ∀ {s t i}, ExecResult s t i → P s → P t)
    {s t : State} (h : step s = .next t) (hs : P s) : P t := by
  rcases step_cases s t h with ⟨-, rfl⟩ | ⟨-, h⟩
  · exact reset (congr (sameBlock_eventTaken s) hs)
  · rcases requesterMove_cases s t h with ⟨-, rfl⟩ | ⟨k, r, -, -, -, rfl⟩ |
      ⟨k, r, f, u, -, -, -, hu, rfl⟩
    · exact congr (sameBlock_eventTaken s) hs
    · exact congr (sameBlock_issue k r _) (congr (sameBlock_turnTaken s) hs)
    · obtain ⟨i, hi⟩ := executeFrame_result f _ u hu
      exact congr (sameBlock_deliver k u) (command hi (congr (sameBlock_turnTaken s) hs))

theorem ExecResult.params_eq {s t : State} {i : Instr} (h : ExecResult s t i) :
    t.params = s.params := by
  cases h with
  | answered i a h => simp [h]
  | raised i c nf h => simp [h]
  | initialised nf nr h => simp [h]
  | written ws m ii nf ne le copy h => simp [h, State.put]
  | read wc bytes oi nf r pos le enough copy h => simp [h, State.got]

/-- A command itself touches no requester: its answer is delivered after it. -/
theorem ExecResult.requesters_eq {s t : State} {i : Instr} (h : ExecResult s t i) :
    t.requesters = s.requesters := by
  cases h with
  | answered i a h => simp [h]
  | raised i c nf h => simp [h]
  | initialised nf nr h => simp [h]
  | written ws m ii nf ne le copy h => simp [h, State.put]
  | read wc bytes oi nf r pos le enough copy h => simp [h, State.got]

theorem step_params {s t : State} (h : step s = .next t) : t.params = s.params :=
  step_keeps (P := fun u => u.params = s.params) (fun e hs => e.params.trans hs) (fun hs => hs)
    (fun e hs => e.params_eq.trans hs) h rfl

theorem step_requesters_length {s t : State} (h : step s = .next t) :
    t.requesters.length = s.requesters.length :=
  step_keeps (P := fun u => u.requesters.length = s.requesters.length)
    (fun e hs => e.members.trans hs) (fun hs => hs)
    (fun e hs => by rw [e.requesters_eq, hs]) h rfl

/-- Settles O8: neither reset, a command, nor a requester's move writes a parameter. -/
theorem parametersNeverChange : Obligations.ParametersNeverChange := fun _ _ => step_params

/-! ## Ring offsets and the registers after a commit -/

/-- Walking `j` and then `k` bytes round the ring is walking `j + k` bytes. -/
theorem ringOffset_ringOffset (n i j k : Nat) :
    ringOffset n (ringOffset n i j) k = ringOffset n i (j + k) := by
  simp [ringOffset, Nat.add_assoc]

/-- Offsets round a ring of whole words keep the place inside the word. -/
theorem ringOffset_mod_four (n i j : Nat) (h : n % 4 = 0) : ringOffset n i j % 4 = (i + j) % 4 :=
  Nat.mod_mod_of_dvd _ (Nat.dvd_of_mod_eq_zero h)

theorem putCount_eq (n c b : Nat) : putCount n c b = c + b - evicted n c b := by
  simp only [putCount, overflows, evicted, decide_eq_true_eq]
  split <;> omega

/-- The read pointer walks over the evicted bytes, none if the ring does not overflow. -/
theorem putOut_eq (n c o b : Nat) (h : o < n) : putOut n c o b = ringOffset n o (evicted n c b) := by
  simp only [putOut, overflows, decide_eq_true_eq]
  split
  · rfl
  · rw [show evicted n c b = 0 by unfold evicted; omega, ringOffset_zero n o h]

/-- A number up to the capacity fits a register. -/
theorem toNat_ofNat_of_le_capacity (p : Params) (x : Nat) (h : x ≤ p.capacity) :
    (BitVec.ofNat 32 x).toNat = x := by
  have := p.capacity_lt
  rw [BitVec.toNat_ofNat, Nat.mod_eq_of_lt (by omega)]

theorem ringOffset_le_capacity (p : Params) (i j : Nat) :
    ringOffset p.capacity i j ≤ p.capacity :=
  Nat.le_of_lt (ringOffset_lt _ i j p.capacity_pos)

/-- The registers after a PUT, as numbers: the pointers walk over the bytes written and the bytes
evicted. -/
theorem State.RingInv.put_registers {s : State} (g : s.RingInv) {ws : List Word} {m : Memory}
    {ii : Nat} (copy : copyIn s.params.capacity s.storage s.inIndex.toNat
      (serialize s.params.byteOrder ws) = some (m, ii)) :
    (s.put ws m ii).count.toNat = s.count.toNat + ws.length * 4 -
      evicted s.params.capacity s.count.toNat (ws.length * 4) ∧
    (s.put ws m ii).inIndex.toNat =
      ringOffset s.params.capacity s.inIndex.toNat (ws.length * 4) ∧
    (s.put ws m ii).outIndex.toNat = ringOffset s.params.capacity s.outIndex.toNat
      (evicted s.params.capacity s.count.toNat (ws.length * 4)) := by
  obtain ⟨m', hm, -⟩ := copyIn_total s.params.capacity s.storage _
    (serialize s.params.byteOrder ws) g.in_lt
  obtain ⟨-, rfl⟩ : m' = m ∧ _ = ii := by simpa using hm.symm.trans copy
  have fits := toNat_ofNat_of_le_capacity s.params
  refine ⟨?_, ?_, ?_⟩
  · rw [← putCount_eq]
    refine fits _ ?_
    rw [putCount_eq, evicted]
    omega
  · exact fits _ (ringOffset_le_capacity _ _ _)
  · rw [← putOut_eq _ _ _ _ g.out_lt]
    refine fits _ ?_
    rw [putOut_eq _ _ _ _ g.out_lt]
    exact ringOffset_le_capacity _ _ _

/-- The registers after a GET of `b` bytes, as numbers. -/
theorem State.RingInv.got_registers {s : State} (g : s.RingInv) {bytes : List Byte} {b oi : Nat}
    (copy : copyOut s s.outIndex.toNat b = some (bytes, oi)) :
    (s.got bytes b oi).count.toNat = s.count.toNat - b ∧
    (s.got bytes b oi).outIndex.toNat = ringOffset s.params.capacity s.outIndex.toNat b := by
  obtain ⟨-, rfl⟩ : _ = bytes ∧ _ = oi := by simpa [copyOut_eq s _ b g.out_lt] using copy
  have fits := toNat_ofNat_of_le_capacity s.params
  exact ⟨fits _ (Nat.le_trans (Nat.sub_le _ _) g.count_le),
    fits _ (ringOffset_le_capacity _ _ _)⟩

/-- PUT's copy loop leaves every listed offset listed, and lists those it writes. -/
theorem copyIn_isSome (n : Nat) (m m' : Memory) (ii e : Nat) (bs : List Byte)
    (copy : copyIn n m ii bs = some (m', e)) (hi : ii < n) (a : Nat)
    (h : (Memory.read m a).isSome = true ∨ ∃ j, j < bs.length ∧ ringOffset n ii j = a) :
    (Memory.read m' a).isSome = true := by
  induction bs generalizing m ii with
  | nil =>
    obtain ⟨rfl, -⟩ : m = m' ∧ ii = e := by simpa [copyIn] using copy
    simpa using h
  | cons b bs ih =>
    simp only [copyIn, memWrite, if_pos hi] at copy
    refine ih _ _ copy (wrapInc_lt n ii hi) ?_
    by_cases ha : ii = a
    · exact .inl (by simp [ha])
    · rcases h with h | ⟨j, hj, hja⟩
      · exact .inl (by rwa [Memory.read_write_other _ _ _ _ ha])
      · cases j with
        | zero => exact absurd ((ringOffset_zero n ii hi).symm.trans hja) ha
        | succ j =>
          exact .inr ⟨j, by simpa using hj, by rwa [ringOffset_wrapInc n ii j hi]⟩

/-! ## The invariant of the block -/

theorem State.BlockInv.of_sameBlock {s t : State} (h : SameBlock s t) (hs : s.BlockInv) :
    t.BlockInv :=
  hs.congr h.params h.storage h.count h.inIndex h.outIndex h.ready h.fault h.fcause

/-- An Uninitialized, unfaulted block that lists nothing meets the invariant. -/
theorem State.blockInv_of_cleared (s : State) (storage : s.storage = []) (ready : s.ready = false)
    (fault : s.fault = false) (fcause : s.fcause = 0#8) : s.BlockInv where
  storage_wf := by rw [storage]; exact List.Pairwise.nil
  storage_lt := by simp [storage]
  cause := by simp [State.CauseInv, fault, fcause]
  ring r := by simp [ready] at r
  written r := by simp [ready] at r

theorem State.hardwareReset_blockInv (s : State) : s.hardwareReset.BlockInv :=
  State.blockInv_of_cleared _ rfl rfl rfl rfl

theorem State.resetOf_inv (p : Params) : (State.resetOf p).Inv where
  toBlockInv := State.blockInv_of_cleared _ rfl rfl rfl rfl
  members := by simp [State.resetOf]

theorem Cause.code_range (c : Cause) : 1 ≤ c.code.toNat ∧ c.code.toNat ≤ 5 := by
  cases c <;> decide

theorem State.BlockInv.raised {s : State} (h : s.BlockInv) (c : Cause) : (s.raised c).BlockInv where
  storage_wf := h.storage_wf
  storage_lt := h.storage_lt
  cause := by simpa [State.CauseInv] using Cause.code_range c
  ring r :=
    have g := h.ring r
    ⟨g.count_le, g.in_lt, g.out_lt, g.pointers⟩
  written := h.written

theorem State.doInit_ringInv (s : State) : s.doInit.RingInv where
  count_le := Nat.zero_le _
  in_lt := s.params.capacity_pos
  out_lt := s.params.capacity_pos
  pointers := (ringOffset_zero _ 0 s.params.capacity_pos).symm

theorem State.BlockInv.doInit {s : State} (h : s.BlockInv) : s.doInit.BlockInv where
  storage_wf := h.storage_wf
  storage_lt := h.storage_lt
  cause := h.cause
  ring _ := s.doInit_ringInv
  written _ j hj := absurd hj (Nat.not_lt_zero j)

theorem State.BlockInv.ensureReady {s : State} (h : s.BlockInv) : s.ensureReady.BlockInv := by
  cases hr : s.ready with
  | true => rwa [s.ensureReady_of_ready hr]
  | false => rw [s.ensureReady_of_not_ready hr]; exact h.doInit

/-- The ring after a PUT: the byte `j` places from the new read pointer on stands `evicted + j` places
from the old one on, so the pointers still agree. -/
theorem State.RingInv.put {s : State} (g : s.RingInv) {ws : List Word} {m : Memory} {ii : Nat}
    (copy : copyIn s.params.capacity s.storage s.inIndex.toNat
      (serialize s.params.byteOrder ws) = some (m, ii)) : (s.put ws m ii).RingInv := by
  obtain ⟨hcount, hin, hout⟩ := g.put_registers copy
  have hp : (s.put ws m ii).params = s.params := rfl
  refine ⟨?_, ?_, ?_, ?_⟩
  · rw [hcount, hp, evicted]
    omega
  · rw [hin, hp]
    exact ringOffset_lt _ _ _ s.params.capacity_pos
  · rw [hout, hp]
    exact ringOffset_lt _ _ _ s.params.capacity_pos
  · rw [hcount, hin, hout, hp, g.pointers, ringOffset_ringOffset, ringOffset_ringOffset]
    congr 1
    unfold evicted
    omega

/-- After PUT's copy loop the old window and the bytes after it up to the new write pointer are
written. -/
theorem State.BlockInv.copyIn_written {s : State} (h : s.BlockInv) (hr : s.ready = true)
    {bs : List Byte} {m : Memory} {ii : Nat}
    (copy : copyIn s.params.capacity s.storage s.inIndex.toNat bs = some (m, ii))
    (i : Nat) (hi : i < s.count.toNat + bs.length) :
    (Memory.read m (ringOffset s.params.capacity s.outIndex.toNat i)).isSome = true := by
  have g := h.ring hr
  refine copyIn_isSome _ _ _ _ _ _ copy g.in_lt _ ?_
  by_cases hold : i < s.count.toNat
  · exact .inl (h.written hr i hold)
  · refine .inr ⟨i - s.count.toNat, by omega, ?_⟩
    rw [g.pointers, ringOffset_ringOffset, Nat.add_sub_cancel' (Nat.not_lt.mp hold)]

theorem State.BlockInv.put {s : State} (h : s.BlockInv) (hr : s.ready = true) {ws : List Word}
    {m : Memory} {ii : Nat} (copy : copyIn s.params.capacity s.storage s.inIndex.toNat
      (serialize s.params.byteOrder ws) = some (m, ii)) : (s.put ws m ii).BlockInv := by
  have g := h.ring hr
  obtain ⟨m', hm, hwf, hlt⟩ := copyIn_total s.params.capacity s.storage _
    (serialize s.params.byteOrder ws) g.in_lt
  obtain ⟨rfl, -⟩ : m' = m ∧ _ = ii := by simpa using hm.symm.trans copy
  refine ⟨hwf h.storage_wf, hlt h.storage_lt, h.cause, fun _ => g.put copy, fun _ j hj => ?_⟩
  obtain ⟨hcount, -, hout⟩ := g.put_registers copy
  rw [hcount] at hj
  rw [hout, show (s.put ws m' ii).params = s.params from rfl, ringOffset_ringOffset]
  refine h.copyIn_written hr copy _ ?_
  rw [serialize_length]
  omega

theorem State.RingInv.got {s : State} (g : s.RingInv) {bytes : List Byte} {b oi : Nat}
    (enough : b ≤ s.count.toNat) (copy : copyOut s s.outIndex.toNat b = some (bytes, oi)) :
    (s.got bytes b oi).RingInv := by
  obtain ⟨hcount, hout⟩ := g.got_registers copy
  have hp : (s.got bytes b oi).params = s.params := rfl
  have hin : (s.got bytes b oi).inIndex = s.inIndex := rfl
  refine ⟨?_, ?_, ?_, ?_⟩
  · rw [hcount, hp]
    exact Nat.le_trans (Nat.sub_le _ _) g.count_le
  · rw [hin, hp]
    exact g.in_lt
  · rw [hout, hp]
    exact ringOffset_lt _ _ _ s.params.capacity_pos
  · rw [hcount, hin, hout, hp, g.pointers, ringOffset_ringOffset, Nat.add_sub_cancel' enough]

/-- The window after a GET is the rest of the old one, and storage is not modified. -/
theorem State.BlockInv.got {s : State} (h : s.BlockInv) (hr : s.ready = true) {bytes : List Byte}
    {b oi : Nat} (enough : b ≤ s.count.toNat)
    (copy : copyOut s s.outIndex.toNat b = some (bytes, oi)) : (s.got bytes b oi).BlockInv := by
  have g := h.ring hr
  obtain ⟨hcount, hout⟩ := g.got_registers copy
  refine ⟨h.storage_wf, h.storage_lt, h.cause, fun _ => g.got enough copy, fun _ j hj => ?_⟩
  rw [hcount] at hj
  rw [hout, show (s.got bytes b oi).params = s.params from rfl, ringOffset_ringOffset]
  exact h.written hr (b + j) (by omega)

/-- Every command keeps the invariant of the block. -/
theorem ExecResult.blockInv {s t : State} {i : Instr} (h : ExecResult s t i) (hs : s.BlockInv) :
    t.BlockInv := by
  cases h with
  | answered i a h => exact h ▸ hs.of_sameBlock (sameBlock_answer s a)
  | raised i c nf h => exact h ▸ hs.raised c
  | initialised nf nr h => exact h ▸ hs.doInit.of_sameBlock (sameBlock_answer _ _)
  | written ws m ii nf ne le copy h =>
    exact h ▸ hs.ensureReady.put s.ensureReady_ready (by simpa using copy)
  | read wc bytes oi nf r pos le enough copy h => exact h ▸ hs.got r enough copy

theorem step_blockInv {s t : State} (h : step s = .next t) (hs : s.BlockInv) : t.BlockInv :=
  step_keeps State.BlockInv.of_sameBlock (fun _ => State.hardwareReset_blockInv _)
    ExecResult.blockInv h hs

/-- Settles O3: the block's invariant is kept by reset and by each of the five things a command can do,
and no step adds or removes a requester. -/
theorem stepKeepsInvariant : Obligations.StepKeepsInvariant := fun _ _ h =>
  ⟨step_blockInv h, fun hs => ⟨step_blockInv h hs.toBlockInv, by
    rw [step_requesters_length h, step_params h, hs.members]⟩⟩

/-- Settles O1: reset, in either form, lists nothing and is Uninitialized and unfaulted, which is all
that the invariant asks of it. -/
theorem invariantHoldsAtReset : Obligations.InvariantHoldsAtReset := by
  refine ⟨rfl, rfl, rfl, State.resetOf_inv _, State.resetOf_inv, fun p r hr => ?_,
    State.hardwareReset_blockInv, fun s hs => ⟨s.hardwareReset_blockInv, hs.members⟩⟩
  obtain ⟨-, rfl⟩ := List.mem_replicate.mp hr
  exact ⟨rfl, rfl, rfl⟩

/-! ## Alignment -/

theorem State.Aligned.of_sameBlock {s t : State} (h : SameBlock s t) (hs : s.Aligned) :
    t.Aligned := by
  unfold State.Aligned
  rw [h.ready, h.count, h.inIndex, h.outIndex]
  exact hs

theorem State.aligned_of_not_ready (s : State) (h : s.ready = false) : s.Aligned :=
  fun r => by simp [h] at r

theorem State.doInit_aligned (s : State) : s.doInit.Aligned := fun _ => ⟨rfl, rfl, rfl⟩

theorem State.Aligned.ensureReady {s : State} (h : s.Aligned) : s.ensureReady.Aligned := by
  cases hr : s.ready with
  | true => rwa [s.ensureReady_of_ready hr]
  | false => rw [s.ensureReady_of_not_ready hr]; exact s.doInit_aligned

/-- PUT writes whole words and evicts whole words from a ring of whole words. -/
theorem State.Aligned.put {s : State} (h : s.Aligned) (hn : s.params.WordAligned)
    (hr : s.ready = true) (g : s.RingInv) {ws : List Word} {m : Memory} {ii : Nat}
    (copy : copyIn s.params.capacity s.storage s.inIndex.toNat
      (serialize s.params.byteOrder ws) = some (m, ii)) : (s.put ws m ii).Aligned := by
  intro _
  obtain ⟨hc, hi, ho⟩ := h hr
  obtain ⟨hcount, hin, hout⟩ := g.put_registers copy
  have hevicted : evicted s.params.capacity s.count.toNat (ws.length * 4) % 4 = 0 := by
    unfold evicted
    unfold Params.WordAligned at hn
    omega
  rw [hcount, hin, hout, ringOffset_mod_four _ _ _ hn, ringOffset_mod_four _ _ _ hn]
  omega

/-- GET reads whole words. -/
theorem State.Aligned.got {s : State} (h : s.Aligned) (hn : s.params.WordAligned)
    (hr : s.ready = true) (g : s.RingInv) {bytes : List Byte} {wc : Int} {oi : Nat}
    (copy : copyOut s s.outIndex.toNat (byteCount wc) = some (bytes, oi)) :
    (s.got bytes (byteCount wc) oi).Aligned := by
  intro _
  obtain ⟨hc, hi, ho⟩ := h hr
  obtain ⟨hcount, hout⟩ := g.got_registers copy
  rw [hcount, hout, ringOffset_mod_four _ _ _ hn]
  refine ⟨?_, hi, ?_⟩ <;> unfold byteCount <;> omega

/-- Every command on a ring of whole words keeps its registers aligned. -/
theorem ExecResult.aligned {s t : State} {i : Instr} (h : ExecResult s t i)
    (hn : s.params.WordAligned) (hb : s.BlockInv) (hs : s.Aligned) : t.Aligned := by
  cases h with
  | answered i a h => exact h ▸ hs.of_sameBlock (sameBlock_answer s a)
  | raised i c nf h => subst h; exact hs
  | initialised nf nr h => exact h ▸ s.doInit_aligned.of_sameBlock (sameBlock_answer _ _)
  | written ws m ii nf ne le copy h =>
    exact h ▸ hs.ensureReady.put (by simpa using hn) s.ensureReady_ready
      (hb.ensureReady.ring s.ensureReady_ready) (by simpa using copy)
  | read wc bytes oi nf r pos le enough copy h => exact h ▸ hs.got hn r (hb.ring r) copy

/-- What a step keeps where the capacity is a multiple of 4: alignment needs the block's invariant
beside it. -/
structure State.AlignedInv (s : State) : Prop extends s.BlockInv where
  wordAligned : s.params.WordAligned
  aligned : s.Aligned

theorem step_alignedInv {s t : State} (h : step s = .next t) (hs : s.AlignedInv) : t.AlignedInv :=
  step_keeps
    (fun e hs => ⟨hs.toBlockInv.of_sameBlock e, e.params ▸ hs.wordAligned,
      hs.aligned.of_sameBlock e⟩)
    (fun hs => ⟨State.hardwareReset_blockInv _, hs.wordAligned, State.aligned_of_not_ready _ rfl⟩)
    (fun e hs => ⟨e.blockInv hs.toBlockInv, e.params_eq ▸ hs.wordAligned,
      e.aligned hs.wordAligned hs.toBlockInv hs.aligned⟩) h hs

/-- Settles O7: PUT and GET move the registers by whole words round a ring of whole words. -/
theorem stepKeepsAlignment : Obligations.StepKeepsAlignment := fun _ _ hn hb ha h =>
  (step_alignedInv h ⟨hb, hn, ha⟩).aligned

/-! ## No step stops -/

/-- The count of a command word is in the range of the 24-bit field. -/
theorem wcExpressible_wcOf (cw : Word) : wcExpressible (wcOf cw) = true := by
  have lower := (wcField cw).le_toInt
  have upper := (wcField cw).toInt_lt
  rw [wcExpressible_iff, wcOf]
  omega

theorem srcExpressible_srcOf (payload : List Word) : srcExpressible (srcOf payload) = true := by
  cases payload <;> rfl

/-- Only well-formed commands are decoded. -/
theorem decode_wf (f : Frame) (i : Instr) (h : decode f = .ok i) : i.wf = true := by
  unfold decode at h
  split_ifs at h <;> cases h
  · simp [Instr.wf, srcExpressible_srcOf, wcExpressible_wcOf]
  · rfl
  · exact wcExpressible_wcOf f.cw
  · rfl
  · rfl

/-- The common prologue stops no command that answers. -/
theorem unlessFaulted_answers (s : State) (o : Host.Outcome State Fault Refusal)
    (h : ∃ t, o = .next t) : ∃ t, unlessFaulted s o = .next t := by
  cases hf : s.fault with
  | true => exact ⟨_, unlessFaulted_of_fault s o hf⟩
  | false => rwa [unlessFaulted_of_not_fault s o hf]

theorem execPut_answers (s : State) (h : s.BlockInv) (src : Option (List Word)) (wc : Int)
    (hwc : wcExpressible wc = true) : ∃ t, execPut src wc s = .next t := by
  unfold execPut
  rw [if_pos hwc]
  refine unlessFaulted_answers s _ ?_
  split
  · exact ⟨_, rfl⟩
  · cases src with
    | none => exact ⟨_, rfl⟩
    | some ws =>
      dsimp only
      split
      · exact ⟨_, rfl⟩
      · obtain ⟨m, -, hput⟩ := putWords_eq s.ensureReady ws
          (h.ensureReady.ring s.ensureReady_ready).in_lt
        exact ⟨_, hput⟩

theorem execGet_answers (s : State) (h : s.BlockInv) (wc : Int)
    (hwc : wcExpressible wc = true) : ∃ t, execGet wc s = .next t := by
  unfold execGet
  rw [if_pos hwc]
  refine unlessFaulted_answers s _ ?_
  split
  · exact ⟨_, rfl⟩
  · split
    · rename_i hr
      split
      · exact ⟨_, rfl⟩
      · exact ⟨_, getWords_eq s _ (h.ring hr).out_lt⟩
    · exact ⟨_, rfl⟩

/-- Every well-formed command on a block with the invariant answers. -/
theorem exec_answers (i : Instr) (s : State) (h : s.BlockInv) (hi : i.wf = true) :
    ∃ t, exec i s = .next t := by
  cases i with
  | init => exact unlessFaulted_answers s _ ⟨_, rfl⟩
  | put src wc => exact execPut_answers s h src wc (Bool.and_eq_true_iff.mp hi).2
  | get wc => exact execGet_answers s h wc hi
  | occ =>
    refine unlessFaulted_answers s _ ?_
    split
    · exact ⟨_, rfl⟩
    · exact ⟨_, rfl⟩
  | deinit => exact unlessFaulted_answers s _ ⟨_, rfl⟩

theorem executeFrame_answers (f : Frame) (s : State) (h : s.BlockInv) :
    ∃ t, executeFrame f s = .next t := by
  unfold executeFrame
  split
  · exact unlessFaulted_answers s _ ⟨_, rfl⟩
  · rename_i i hd
    exact exec_answers i s h (decode_wf f i hd)

theorem turn_answers (k : Nat) (s : State) (h : s.BlockInv) : ∃ t, turn k s = .next t := by
  unfold turn
  split
  · exact ⟨_, rfl⟩
  · split
    · rename_i f _
      obtain ⟨u, hu⟩ := executeFrame_answers f s h
      exact ⟨deliver k u, by rw [hu]; rfl⟩
    · exact ⟨_, rfl⟩

/-- Settles O4: the decoder gives only counts that are expressible, and with the pointers in range no
byte access leaves storage, so every frame is answered. -/
theorem stepNeverStops : Obligations.StepNeverStops := by
  intro s hs
  by_cases hr : s.schedule.head? = some .reset
  · exact ⟨_, step_of_reset s hr⟩
  · rw [step_of_no_reset s hr]
    unfold requesterMove
    split
    · exact ⟨_, rfl⟩
    · exact turn_answers _ _ (hs.of_sameBlock (sameBlock_turnTaken s))

/-! ## A pointer outside storage -/

theorem putWords_outside (s : State) (ws : List Word) (hne : ws ≠ [])
    (h : s.params.capacity ≤ s.inIndex.toNat) : putWords s ws = .fault .storageRange := by
  have hpos := List.length_pos_iff.mpr hne
  obtain ⟨b, bs, hbytes⟩ := List.exists_cons_of_length_pos
    (l := serialize s.params.byteOrder ws) (by rw [serialize_length]; omega)
  simp [putWords, hbytes, copyIn_outside _ _ _ _ _ h]

theorem getWords_outside (s : State) (b : Nat) (hb : 0 < b)
    (h : s.params.capacity ≤ s.outIndex.toNat) : getWords s b = .fault .storageRange := by
  obtain ⟨k, rfl⟩ := Nat.exists_eq_add_one.mpr hb
  simp [getWords, copyOut_outside s _ _ h]

/-- Settles O41: past the checks, the first byte of the copy loop is already outside storage. -/
theorem accessOutsideStorageFaults : Obligations.AccessOutsideStorageFaults := by
  intro s k nf hr hk hmax
  have hwc : wcExpressible (k : Int) = true := (wcExpressible_iff _).mpr (by omega)
  constructor
  · rintro hin ws rfl
    have hne : ws ≠ [] := List.ne_nil_of_length_pos hk
    simp [exec, execPut, hwc, hne, unlessFaulted_of_not_fault s _ nf, s.ensureReady_of_ready hr,
      putWords_outside s ws hne hin]
  · intro hout hcount
    have hpos : 0 < byteCount (k : Int) := by unfold byteCount; omega
    have henough : ¬ s.count.toNat < byteCount (k : Int) := by unfold byteCount; omega
    simp [exec, execGet, hwc, hk.ne', unlessFaulted_of_not_fault s _ nf, hr, henough,
      getWords_outside s _ hpos hout]

/-! ## Words and bytes -/

theorem wordByte_toNat (w : Word) (k : Nat) : (wordByte w k).toNat = w.toNat / 256 ^ k % 256 := by
  simp [wordByte, Nat.shiftRight_eq_div_pow, Nat.pow_mul]

/-- A word is its four bytes, the most significant first. -/
theorem wordByte_append (w : Word) :
    wordByte w 3 ++ wordByte w 2 ++ wordByte w 1 ++ wordByte w 0 = w := by
  unfold wordByte
  rw [BitVec.extractLsb'_append_extractLsb'_eq_extractLsb' (show 8 * 3 = 8 * 2 + 8 from rfl),
    BitVec.extractLsb'_append_extractLsb'_eq_extractLsb' (show 8 * 2 = 8 * 1 + 8 from rfl),
    BitVec.extractLsb'_append_extractLsb'_eq_extractLsb' (show 8 * 1 = 8 * 0 + 8 from rfl)]
  exact BitVec.extractLsb'_eq_self

theorem wordsOf_bytesOf_append (o : ByteOrder) (w : Word) (bs : List Byte) :
    wordsOf o (bytesOf o w ++ bs) = w :: wordsOf o bs := by
  cases o <;> exact congrArg (· :: _) (wordByte_append w)

/-- Fewer than four bytes make no word. -/
theorem wordsOf_of_length_lt (o : ByteOrder) (bs : List Byte) (h : bs.length < 4) :
    wordsOf o bs = [] := by
  match bs with
  | [] | [_] | [_, _] | [_, _, _] => rfl
  | _ :: _ :: _ :: _ :: rest => simp only [List.length_cons] at h; omega

theorem wordsOf_serialize_append (o : ByteOrder) (ws : List Word) (bs : List Byte) :
    wordsOf o (serialize o ws ++ bs) = ws ++ wordsOf o bs := by
  induction ws with
  | nil => rfl
  | cons w ws ih =>
    rw [serialize_cons, List.append_assoc, wordsOf_bytesOf_append, ih, List.cons_append]

/-- Settles O17: each word's four bytes are assembled to the word again, and the rest is too short for
one. -/
theorem wordsSurviveSerialization : Obligations.WordsSurviveSerialization := by
  intro o ws rest h
  rw [wordsOf_serialize_append, wordsOf_of_length_lt o rest h, List.append_nil]

theorem serialize_little_getElem? (w : Word) (k : Nat) (h : k < 4) :
    (serialize .little [w])[k]? = some (wordByte w k) := by
  match k with
  | 0 | 1 | 2 | 3 => rfl

theorem serialize_big_getElem? (w : Word) (k : Nat) (h : k < 4) :
    (serialize .big [w])[k]? = some (wordByte w (3 - k)) := by
  match k with
  | 0 | 1 | 2 | 3 => rfl

/-- Settles O18: place `k` holds byte `k` of a little-endian word and byte `3 - k` of a big-endian
one. -/
theorem byteOrderOfAWord : Obligations.ByteOrderOfAWord := by
  intro w k h
  rw [serialize_little_getElem? w k h, serialize_big_getElem? w k h, Option.map_some,
    Option.map_some, wordByte_toNat, wordByte_toNat]
  exact ⟨rfl, rfl⟩

end Sys2Proof.Machine

/-! # The statements of 10_state.md: the abstract queue, stale bytes, and which element a command writes -/

namespace Sys2Proof.Machine

/-! ## The window, byte by byte -/

/-- Offsets less than one turn of the ring apart are equal only at the same place. -/
theorem ringOffset_inj {n i j k : Nat} (h : ringOffset n i j = ringOffset n i k)
    (hjk : j < k + n) (hkj : k < j + n) : j = k :=
  Nat.ModEq.eq_of_abs_lt (m := n) (Nat.ModEq.add_left_cancel' i h) (by rw [abs_lt]; omega)

theorem State.BlockInv.resident_ringOffset {s : State} (h : s.BlockInv) (hr : s.ready = true)
    {j : Nat} (hj : j < s.count.toNat) :
    s.resident (ringOffset s.params.capacity s.outIndex.toNat j) = true :=
  (resident_iff s _ (h.ring hr).out_lt).mpr
    ⟨hr, ringOffset_lt _ _ _ s.params.capacity_pos, j, hj, rfl⟩

/-- Every byte of the window is the one written there: no free value is in it. -/
theorem State.BlockInv.read_eq_byteAt {s : State} (h : s.BlockInv) (hr : s.ready = true) {j : Nat}
    (hj : j < s.count.toNat) :
    Memory.read s.storage (ringOffset s.params.capacity s.outIndex.toNat j) =
      some (s.byteAt (ringOffset s.params.capacity s.outIndex.toNat j)) := by
  obtain ⟨b, hb⟩ := Option.isSome_iff_exists.mp (h.written hr j hj)
  rw [hb, byteAt_of_resident s _ b (h.resident_ringOffset hr hj) hb]

theorem State.BlockInv.window_getElem? {s : State} (h : s.BlockInv) (hr : s.ready = true) {j : Nat}
    (hj : j < s.count.toNat) :
    s.window[j]? = Memory.read s.storage (ringOffset s.params.capacity s.outIndex.toNat j) := by
  rw [h.read_eq_byteAt hr hj, State.window, List.getElem?_map, List.getElem?_range hj,
    Option.map_some]

/-- The window is the list of `count` bytes that storage holds from the read pointer on. -/
theorem State.BlockInv.window_eq {s : State} (h : s.BlockInv) (hr : s.ready = true) {l : List Byte}
    (len : l.length = s.count.toNat)
    (bytes : ∀ j, j < s.count.toNat →
      Memory.read s.storage (ringOffset s.params.capacity s.outIndex.toNat j) = l[j]?) :
    s.window = l := by
  refine List.ext_getElem? fun j => ?_
  by_cases hj : j < s.count.toNat
  · rw [h.window_getElem? hr hj, bytes j hj]
  · rw [List.getElem?_eq_none (by simpa using hj), List.getElem?_eq_none (by omega)]

/-- The bytes that GET's copy loop reads are the oldest of the window. -/
theorem window_take (s : State) {b : Nat} (h : b ≤ s.count.toNat) :
    s.window.take b =
      (List.range b).map (fun j => s.byteAt (ringOffset s.params.capacity s.outIndex.toNat j)) := by
  rw [State.window, ← List.map_take, List.take_range, Nat.min_eq_left h]

/-- After PUT's copy loop, place `i` from the old read pointer on holds byte `i` of the old window
followed by the bytes copied, unless a later byte went round the ring to the same offset. -/
theorem State.BlockInv.copyIn_window {s : State} (h : s.BlockInv) (hr : s.ready = true)
    {bs : List Byte} {m : Memory} {ii : Nat}
    (copy : copyIn s.params.capacity s.storage s.inIndex.toNat bs = some (m, ii))
    {i : Nat} (lt : i < s.count.toNat + bs.length)
    (last : s.count.toNat + bs.length ≤ i + s.params.capacity) :
    Memory.read m (ringOffset s.params.capacity s.outIndex.toNat i) = (s.window ++ bs)[i]? := by
  have g := h.ring hr
  obtain ⟨kept, overwritten⟩ := copyIn_read _ _ _ _ _ _ copy g.in_lt
    (ringOffset s.params.capacity s.outIndex.toNat i)
  simp only [g.pointers, ringOffset_ringOffset] at kept overwritten
  by_cases old : i < s.count.toNat
  · rw [List.getElem?_append_left (by simpa using old), h.window_getElem? hr old]
    refine kept fun j hj e => ?_
    have := ringOffset_inj e (by omega) (by omega)
    omega
  · rw [List.getElem?_append_right (by simpa using old), window_length]
    refine overwritten _ (by omega) (by omega) ?_
    rw [Nat.add_sub_cancel' (Nat.not_lt.mp old)]

/-- PUT appends its bytes to the window and keeps the last `N` (R37, R128). -/
theorem State.BlockInv.put_window {s : State} (h : s.BlockInv) (hr : s.ready = true)
    {ws : List Word} {m : Memory} {ii : Nat}
    (copy : copyIn s.params.capacity s.storage s.inIndex.toNat
      (serialize s.params.byteOrder ws) = some (m, ii)) :
    (s.put ws m ii).window =
      takeLast s.params.capacity (s.window ++ serialize s.params.byteOrder ws) := by
  obtain ⟨hcount, -, hout⟩ := (h.ring hr).put_registers copy
  have hlen : (s.window ++ serialize s.params.byteOrder ws).length =
      s.count.toNat + ws.length * 4 := by simp
  have hevicted : takeLast s.params.capacity (s.window ++ serialize s.params.byteOrder ws) =
      (s.window ++ serialize s.params.byteOrder ws).drop
        (evicted s.params.capacity s.count.toNat (ws.length * 4)) := by
    rw [takeLast, hlen, evicted]
  rw [hevicted]
  refine (h.put hr copy).window_eq hr (by rw [List.length_drop, hlen, hcount]) fun j hj => ?_
  rw [hcount] at hj
  rw [List.getElem?_drop, hout, show (s.put ws m ii).params = s.params from rfl,
    ringOffset_ringOffset]
  exact h.copyIn_window hr copy (by rw [serialize_length]; omega)
    (by rw [serialize_length, evicted]; omega)

/-- GET takes the oldest bytes off the window (R37, R141). -/
theorem State.BlockInv.got_window {s : State} (h : s.BlockInv) (hr : s.ready = true)
    {bytes : List Byte} {b oi : Nat} (enough : b ≤ s.count.toNat)
    (copy : copyOut s s.outIndex.toNat b = some (bytes, oi)) :
    (s.got bytes b oi).window = s.window.drop b := by
  obtain ⟨hcount, hout⟩ := (h.ring hr).got_registers copy
  refine (h.got hr enough copy).window_eq hr (by simp [hcount]) fun j hj => ?_
  rw [hcount] at hj
  rw [List.getElem?_drop, h.window_getElem? hr (by omega), hout,
    show (s.got bytes b oi).params = s.params from rfl, ringOffset_ringOffset]
  rfl

/-! ## The abstract queue -/

theorem queue_of_ready (s : State) (h : s.ready = true) : s.queue = s.window := by
  simp [State.queue, h]

theorem queue_of_not_ready (s : State) (h : s.ready = false) : s.queue = [] := by
  simp [State.queue, h]

@[simp] theorem queue_answer (s : State) (a : Response) : (s.answer a).queue = s.queue := rfl

@[simp] theorem queue_raised (s : State) (c : Cause) : (s.raised c).queue = s.queue := rfl

/-- The first initialisation leaves the queue empty. -/
@[simp] theorem queue_ensureReady (s : State) : s.ensureReady.queue = s.queue := by
  cases hr : s.ready with
  | true => rw [s.ensureReady_of_ready hr]
  | false =>
    rw [s.ensureReady_of_not_ready hr, queue_of_not_ready s hr]
    rfl

/-- Everything a command that raises no Fatal can do, with its answer. -/
inductive Completes (s t : State) : Instr → Prop
  | init (h : t = s.ensureReady.answer (.ok [])) : Completes s t .init
  | put (ws : List Word) (m : Memory) (ii : Nat)
      (copy : copyIn s.params.capacity s.storage s.ensureReady.inIndex.toNat
        (serialize s.params.byteOrder ws) = some (m, ii))
      (h : t = s.ensureReady.put ws m ii) : Completes s t (.put (some ws) ws.length)
  | noData (wc : Int) (r : s.ready = true) (short : s.count.toNat < byteCount wc)
      (h : t = s.answer .errNoData) : Completes s t (.get wc)
  | got (wc : Int) (bytes : List Byte) (oi : Nat) (r : s.ready = true)
      (enough : byteCount wc ≤ s.count.toNat)
      (copy : copyOut s s.outIndex.toNat (byteCount wc) = some (bytes, oi))
      (h : t = s.got bytes (byteCount wc) oi) : Completes s t (.get wc)
  | occ (r : s.ready = true) (h : t = s.answer (.ok [s.count])) : Completes s t .occ
  | deinit (h : t = s.answer (.ok [])) : Completes s t .deinit

/-- A block that is not faulted after a command ran its body. -/
theorem unlessFaulted_next_unfaulted {s t : State} {o : Host.Outcome State Fault Refusal}
    (h : unlessFaulted s o = .next t) (nf : t.fault = false) : o = .next t := by
  rcases unlessFaulted_next s t o h with ⟨hf, rfl⟩ | ⟨-, h⟩
  · rw [State.answer_fault, hf] at nf
    cases nf
  · exact h

/-- Raising Fatal leaves the block faulted. -/
theorem raiseFatal_faults {s t : State} {c : Cause} (h : raiseFatal s c = .next t)
    (nf : t.fault = false) : False := by
  injection h with h
  rw [← h, State.raised_fault] at nf
  cases nf

theorem putWords_completes {s t : State} {ws : List Word}
    (h : putWords s.ensureReady ws = .next t) : Completes s t (.put (some ws) ws.length) := by
  simp only [putWords, State.ensureReady_params, State.ensureReady_storage] at h
  split at h
  · cases h
  · rename_i m ii copy
    injection h with h
    exact .put ws m ii copy (by rw [← h]; simp [State.put])

theorem execPut_completes {s t : State} {src : Option (List Word)} {wc : Int}
    (h : execPut src wc s = .next t) (nf : t.fault = false) : Completes s t (.put src wc) := by
  unfold execPut at h
  split at h
  · have body := unlessFaulted_next_unfaulted h nf
    split at body
    · exact (raiseFatal_faults body nf).elim
    · cases src with
      | none => exact (raiseFatal_faults body nf).elim
      | some ws =>
        dsimp only at body
        split at body
        · exact (raiseFatal_faults body nf).elim
        · rename_i hlen
          obtain rfl := not_not.mp hlen
          exact putWords_completes body
  · cases h

theorem execGet_completes {s t : State} {wc : Int}
    (h : execGet wc s = .next t) (nf : t.fault = false) : Completes s t (.get wc) := by
  unfold execGet at h
  split at h
  · have body := unlessFaulted_next_unfaulted h nf
    split at body
    · exact (raiseFatal_faults body nf).elim
    · split at body
      · rename_i hr
        split at body
        · rename_i short
          injection body with body
          exact .noData wc hr short body.symm
        · rename_i enough
          unfold getWords at body
          split at body
          · cases body
          · rename_i bytes oi copy
            injection body with body
            exact .got wc bytes oi hr (Nat.not_lt.mp enough) copy body.symm
      · exact (raiseFatal_faults body nf).elim
  · cases h

theorem execOcc_completes {s t : State} (h : execOcc s = .next t) (nf : t.fault = false) :
    Completes s t .occ := by
  have body := unlessFaulted_next_unfaulted h nf
  split at body
  · rename_i hr
    injection body with body
    exact .occ hr body.symm
  · exact (raiseFatal_faults body nf).elim

theorem exec_completes {i : Instr} {s t : State} (h : exec i s = .next t) (nf : t.fault = false) :
    Completes s t i := by
  cases i with
  | init =>
    injection unlessFaulted_next_unfaulted h nf with h
    exact .init h.symm
  | put src wc => exact execPut_completes h nf
  | get wc => exact execGet_completes h nf
  | occ => exact execOcc_completes h nf
  | deinit =>
    injection unlessFaulted_next_unfaulted h nf with h
    exact .deinit h.symm

/-- Each way to complete a command is R37's step of the queue. -/
theorem Completes.refines {s t : State} {i : Instr} (h : Completes s t i) (hs : s.BlockInv) :
    ∃ a, t.response = some a ∧ queueStep s.params i s.queue = (t.queue, a) := by
  cases h with
  | init h =>
    subst h
    exact ⟨_, rfl, by simp [queueStep]⟩
  | put ws m ii copy h =>
    subst h
    have hw := hs.ensureReady.put_window (ws := ws) (m := m) (ii := ii) s.ensureReady_ready
      (by simpa using copy)
    rw [← queue_of_ready s.ensureReady s.ensureReady_ready, queue_ensureReady,
      State.ensureReady_params] at hw
    refine ⟨.ok [], rfl, ?_⟩
    rw [queue_of_ready (s.ensureReady.put ws m ii) s.ensureReady_ready, hw]
    rfl
  | noData wc r short h =>
    subst h
    refine ⟨_, rfl, ?_⟩
    rw [queue_answer, queueStep, queue_of_ready s r, window_length, if_pos short]
  | got wc bytes oi r enough copy h =>
    subst h
    refine ⟨_, rfl, ?_⟩
    obtain ⟨rfl, -⟩ : _ = bytes ∧ _ = oi := by
      simpa [copyOut_eq s _ _ (hs.ring r).out_lt] using copy
    rw [queue_of_ready (s.got _ _ _) r, hs.got_window r enough copy, queueStep,
      queue_of_ready s r, window_length, if_neg (Nat.not_lt.mpr enough), window_take s enough]
  | occ r h =>
    subst h
    refine ⟨_, rfl, ?_⟩
    rw [queue_answer, queueStep, queue_of_ready s r, window_length, BitVec.ofNat_toNat,
      BitVec.setWidth_eq]
  | deinit h =>
    subst h
    exact ⟨_, rfl, rfl⟩

/-- Settles O33: each of the six ways to complete a command is R37's step, PUT and GET by what storage
holds place by place. -/
theorem commandsRefineByteQueue : Obligations.CommandsRefineByteQueue := fun _ _ _ hs h nf =>
  (exec_completes h nf).refines hs

/-! ## Pointers, reset, and the sticky fault -/

/-- Settles O5: the write pointer is `count` places from the read pointer, which is a whole turn of the
ring exactly when `count` is 0 or `N`. -/
theorem equalPointersMeanEmptyOrFull : Obligations.EqualPointersMeanEmptyOrFull := by
  intro s h hr
  have g := h.ring hr
  have le := g.count_le
  have pointers := g.pointers
  rw [State.isEmpty, State.isFull, beq_iff_eq, beq_iff_eq]
  constructor
  · intro e
    rw [e, ← ringOffset_zero _ _ g.out_lt, ringOffset_ringOffset, Nat.zero_add] at pointers
    by_contra ne
    have := ringOffset_inj pointers (by omega) (by omega)
    omega
  · rintro (e | e)
    · rw [e, ringOffset_zero _ _ g.out_lt] at pointers
      exact BitVec.eq_of_toNat_eq pointers
    · rw [e, ringOffset, Nat.add_mod_right, Nat.mod_eq_of_lt g.out_lt] at pointers
      exact BitVec.eq_of_toNat_eq pointers

/-- Settles O2: the step that a reset event stands for is the reset itself. -/
theorem resetEventResetsTheBlock : Obligations.ResetEventResetsTheBlock := fun s h =>
  ⟨_, step_of_reset s h, rfl, rfl, rfl, Memory.read_nil, rfl, rfl, rfl⟩

/-- How a fact about the block is proved of a step without a reset: it speaks of the block alone, and
every command keeps it. -/
theorem requesterMove_keeps {P : State → Prop} (congr : ∀ {s t}, SameBlock s t → P s → P t)
    (command : ∀ {s t i}, ExecResult s t i → P s → P t)
    {s t : State} (h : requesterMove s = .next t) (hs : P s) : P t := by
  rcases requesterMove_cases s t h with ⟨-, rfl⟩ | ⟨k, r, -, -, -, rfl⟩ |
    ⟨k, r, f, u, -, -, -, hu, rfl⟩
  · exact congr (sameBlock_eventTaken s) hs
  · exact congr (sameBlock_issue k r _) (congr (sameBlock_turnTaken s) hs)
  · obtain ⟨i, hi⟩ := executeFrame_result f _ u hu
    exact congr (sameBlock_deliver k u) (command hi (congr (sameBlock_turnTaken s) hs))

theorem SameBlock.refl (s : State) : SameBlock s s := by constructor <;> rfl

theorem SameBlock.trans {s t u : State} (h : SameBlock s t) (g : SameBlock t u) : SameBlock s u where
  params := g.params.trans h.params
  storage := g.storage.trans h.storage
  count := g.count.trans h.count
  inIndex := g.inIndex.trans h.inIndex
  outIndex := g.outIndex.trans h.outIndex
  ready := g.ready.trans h.ready
  fault := g.fault.trans h.fault
  fcause := g.fcause.trans h.fcause
  members := g.members.trans h.members

/-- A faulted block only answers. -/
theorem ExecResult.sameBlock_of_fault {s t : State} {i : Instr} (h : ExecResult s t i)
    (hf : s.fault = true) : SameBlock s t := by
  cases h with
  | answered i a h => exact h ▸ sameBlock_answer s a
  | raised i c nf h => simp [hf] at nf
  | initialised nf nr h => simp [hf] at nf
  | written ws m ii nf ne le copy h => simp [hf] at nf
  | read wc bytes oi nf r pos le enough copy h => simp [hf] at nf

/-- Settles O9: without a reset every move of a faulted machine keeps the whole block. -/
theorem faultIsSticky : Obligations.FaultIsSticky := by
  intro s t hf nr h
  rw [step_of_no_reset s nr] at h
  have same : SameBlock s t :=
    requesterMove_keeps (P := SameBlock s) (fun e hs => hs.trans e)
      (fun e hs => hs.trans (e.sameBlock_of_fault (hs.fault.trans hf))) h (SameBlock.refl s)
  exact ⟨same.fault.trans hf, same.fcause, same.ready, same.count, same.inIndex, same.outIndex,
    same.storage⟩

theorem ExecResult.ready {s t : State} {i : Instr} (h : ExecResult s t i) (hr : s.ready = true) :
    t.ready = true := by
  cases h with
  | answered i a h => simp [h, hr]
  | raised i c nf h => simp [h, hr]
  | initialised nf nr h => simp [h]
  | written ws m ii nf ne le copy h => simp [h, State.put]
  | read wc bytes oi nf r pos le enough copy h => simp [h, hr, State.got]

/-- Settles O10: a reset clears `ready`, and every command and every other move keeps it set. -/
theorem readyIsLeftByResetOnly : Obligations.ReadyIsLeftByResetOnly := by
  intro s t hr h
  rcases step_cases s t h with ⟨reset, rfl⟩ | ⟨nr, h⟩
  · exact iff_of_true rfl reset
  · have stays : t.ready = true :=
      requesterMove_keeps (P := fun u => u.ready = true) (fun e hs => e.ready.trans hs)
        ExecResult.ready h hr
    simp [stays, nr]

/-! ## What a command may change -/

/-- Settles O27: PUT adds its bytes to the count and takes off only those above `N`. -/
theorem putNeverLowersOccupancy : Obligations.PutNeverLowersOccupancy := by
  intro s t src wc hs hr h
  have g := hs.ring hr
  have le := g.count_le
  cases execPut_result s t src wc h with
  | answered _ a e => exact e ▸ ⟨Nat.le_refl _, le⟩
  | raised _ c nf e => exact e ▸ ⟨Nat.le_refl _, le⟩
  | written ws m ii nf ne len copy e =>
    rw [s.ensureReady_of_ready hr] at copy e
    obtain ⟨hcount, -, -⟩ := g.put_registers copy
    rw [e, hcount, evicted]
    omega

/-- Settles O31: each of the five things a command can do writes what its clauses allow. -/
theorem commandsWriteOnlyTheirElements : Obligations.CommandsWriteOnlyTheirElements := by
  intro i s t h
  cases exec_result i s t h with
  | answered _ a e => simp [e]
  | raised _ c nf e => simp [e]
  | initialised nf nr e => simp [e, nf]
  | written ws m ii nf ne le copy e => simp [e, nf, State.put]
  | read wc bytes oi nf r pos le enough copy e => simp [e, nf, State.got]

/-! ## Turns of a requester that only reads -/

/-- Storage, the write pointer and `ready` stay, and the count does not grow. -/
structure AddsNoData (s t : State) : Prop where
  storage : t.storage = s.storage
  inIndex : t.inIndex = s.inIndex
  ready : t.ready = s.ready
  count : t.count.toNat ≤ s.count.toNat

theorem SameBlock.addsNoData {s t : State} (h : SameBlock s t) : AddsNoData s t :=
  ⟨h.storage, h.inIndex, h.ready, by rw [h.count]⟩

theorem AddsNoData.trans {s t u : State} (h : AddsNoData s t) (g : AddsNoData t u) :
    AddsNoData s u :=
  ⟨g.storage.trans h.storage, g.inIndex.trans h.inIndex, g.ready.trans h.ready,
    g.count.trans h.count⟩

/-- INIT and PUT are the only commands that add data. -/
theorem ExecResult.addsNoData {s t : State} {i : Instr} (h : ExecResult s t i) (init : i ≠ .init)
    (put : ∀ src wc, i ≠ .put src wc) : AddsNoData s t := by
  cases h with
  | answered i a h => exact h ▸ (sameBlock_answer s a).addsNoData
  | raised i c nf h => exact h ▸ ⟨rfl, rfl, rfl, Nat.le_refl _⟩
  | initialised nf nr h => exact absurd rfl init
  | written ws m ii nf ne le copy h => exact absurd rfl (put _ _)
  | read wc bytes oi nf r pos le enough copy h =>
    refine h ▸ ⟨rfl, rfl, rfl, ?_⟩
    calc (BitVec.ofNat 32 (s.count.toNat - byteCount wc)).toNat
        ≤ s.count.toNat - byteCount wc := by rw [BitVec.toNat_ofNat]; exact Nat.mod_le _ _
      _ ≤ s.count.toNat := Nat.sub_le _ _

theorem opField_of_decode_init {f : Frame} (h : decode f = .ok .init) : opField f.cw = 0x1#4 := by
  unfold decode at h
  split_ifs at h <;> cases h
  assumption

theorem opField_of_decode_put {f : Frame} {src : Option (List Word)} {wc : Int}
    (h : decode f = .ok (.put src wc)) : opField f.cw = 0x2#4 := by
  unfold decode at h
  split_ifs at h <;> cases h
  assumption

/-- A frame with the opcode of GET or OCC decodes to neither INIT nor PUT. -/
theorem decode_of_frameOnlyReads {f : Frame} {i : Instr} (hf : frameOnlyReads f = true)
    (h : decode f = .ok i) : i ≠ .init ∧ ∀ src wc, i ≠ .put src wc := by
  constructor
  · rintro rfl
    simp [frameOnlyReads, opField_of_decode_init h] at hf
  · rintro src wc rfl
    simp [frameOnlyReads, opField_of_decode_put h] at hf

theorem executeFrame_addsNoData {f : Frame} {s t : State} (hf : frameOnlyReads f = true)
    (h : executeFrame f s = .next t) : AddsNoData s t := by
  unfold executeFrame at h
  split at h
  · rcases unlessFaulted_next _ _ _ h with ⟨-, rfl⟩ | ⟨-, h⟩
    · exact (sameBlock_answer s _).addsNoData
    · injection h with h
      exact h ▸ ⟨rfl, rfl, rfl, Nat.le_refl _⟩
  · rename_i i hd
    obtain ⟨init, put⟩ := decode_of_frameOnlyReads hf hd
    exact (exec_result i s t h).addsNoData init put

theorem Requester.onlyReads_port {r : Requester} {f : Frame} (h : r.onlyReads = true)
    (hp : r.port = some f) : frameOnlyReads f = true := by
  simp only [Requester.onlyReads, hp, Bool.and_eq_true] at h
  exact h.2

/-- Settles O51: such a turn either issues a command, which is no change of the block, or executes a
frame that decodes to GET, to OCC or to nothing. -/
theorem readersNeverAddData : Obligations.ReadersNeverAddData := by
  intro s t k r nr turn hk reads h
  rw [step_of_no_reset s nr] at h
  have kept : AddsNoData s t := by
    rcases requesterMove_cases s t h with ⟨none, -⟩ | ⟨l, q, -, -, -, rfl⟩ |
      ⟨l, q, f, u, hl, hq, hp, hu, rfl⟩
    · rw [turn] at none
      cases none
    · exact ((sameBlock_turnTaken s).trans (sameBlock_issue l q _)).addsNoData
    · obtain rfl : k = l := by simpa [turn] using hl
      obtain rfl : r = q := by simpa [hk] using hq
      exact ((sameBlock_turnTaken s).addsNoData.trans
        (executeFrame_addsNoData (Requester.onlyReads_port reads hp) hu)).trans
        (sameBlock_deliver k u).addsNoData
  exact ⟨kept.storage, kept.inIndex, kept.ready, kept.count⟩

/-! ## Two blocks that differ in stale bytes only -/

/-- The state with another storage and other free contents. -/
def State.restaled (s : State) (m : Memory) (e : Nat) : State := { s with storage := m, epoch := e }

theorem ensureReady_restaled (s : State) (m : Memory) (e : Nat) :
    (s.restaled m e).ensureReady = s.ensureReady.restaled m e := by
  unfold State.ensureReady
  rw [show (s.restaled m e).ready = s.ready from rfl]
  split <;> rfl

/-- Two outcomes of the same kind: next states related by `R`, or the same stop. -/
inductive OutcomeRel (R : State → State → Prop) :
    Host.Outcome State Fault Refusal → Host.Outcome State Fault Refusal → Prop
  | next {u v : State} (h : R u v) : OutcomeRel R (.next u) (.next v)
  | fault (r : Fault) : OutcomeRel R (.fault r) (.fault r)
  | refused (r : Refusal) : OutcomeRel R (.refused r) (.refused r)

theorem OutcomeRel.next_left {R : State → State → Prop} {u : State}
    {o : Host.Outcome State Fault Refusal} (h : OutcomeRel R (.next u) o) :
    ∃ v, o = .next v ∧ R u v := by
  cases h with
  | next h => exact ⟨_, rfl, h⟩

theorem OutcomeRel.fault_left {R : State → State → Prop} {r : Fault}
    {o : Host.Outcome State Fault Refusal} (h : OutcomeRel R (.fault r) o) : o = .fault r := by
  cases h with
  | fault => rfl

theorem OutcomeRel.refused_left {R : State → State → Prop} {r : Refusal}
    {o : Host.Outcome State Fault Refusal} (h : OutcomeRel R (.refused r) o) : o = .refused r := by
  cases h with
  | refused => rfl

/-- Where the relation is a function, the second outcome is the first with that change after it. -/
theorem OutcomeRel.eq_andThen {R : State → State → Prop} {o o' : Host.Outcome State Fault Refusal}
    {f : State → State} (h : OutcomeRel R o o') (hf : ∀ u v, R u v → v = f u) :
    o' = andThen o f := by
  cases h with
  | next h => rw [hf _ _ h]; rfl
  | fault r => rfl
  | refused r => rfl

/-- `u` and `v` are where one command took `s` and `s.restaled m e`: alike up to storage, with as many
draws since, and with one storage if they started with one. -/
def StaleTwin (s : State) (m : Memory) (e : Nat) (u v : State) : Prop :=
  ∃ m', v = u.restaled m' (e + (u.epoch - s.epoch)) ∧ (m = s.storage → m' = u.storage)

section
variable {s : State} {m : Memory} {e : Nat}

/-- A change that touches neither storage nor the draws keeps the two alike. -/
theorem OutcomeRel.untouched {u : State} (storage : u.storage = s.storage)
    (epoch : u.epoch = s.epoch) :
    OutcomeRel (StaleTwin s m e) (.next u) (.next (u.restaled m e)) :=
  .next ⟨m, by rw [epoch, Nat.sub_self, Nat.add_zero], fun h => h.trans storage.symm⟩

theorem OutcomeRel.unlessFaulted {o o' : Host.Outcome State Fault Refusal}
    (h : OutcomeRel (StaleTwin s m e) o o') :
    OutcomeRel (StaleTwin s m e) (unlessFaulted s o) (unlessFaulted (s.restaled m e) o') := by
  cases hf : s.fault with
  | true =>
    rw [unlessFaulted_of_fault s o hf, unlessFaulted_of_fault (s.restaled m e) o' hf]
    exact .untouched (u := s.answer _) rfl rfl
  | false =>
    rwa [unlessFaulted_of_not_fault s o hf, unlessFaulted_of_not_fault (s.restaled m e) o' hf]

/-- PUT's copy loop starts from the write pointer and never looks at what it overwrites. -/
theorem putWords_twin {u : State} (storage : u.storage = s.storage) (epoch : u.epoch = s.epoch)
    (in_lt : u.inIndex.toNat < u.params.capacity) (ws : List Word) :
    OutcomeRel (StaleTwin s m e) (putWords u ws) (putWords (u.restaled m e) ws) := by
  obtain ⟨m₁, copy₁, put₁⟩ := putWords_eq u ws in_lt
  obtain ⟨m₂, copy₂, put₂⟩ := putWords_eq (u.restaled m e) ws in_lt
  rw [put₁, put₂]
  refine .next ⟨m₂, ?_, ?_⟩
  · rw [show ((u.commitPut m₁ _ _ _).answer (.ok [])).epoch = s.epoch from epoch, Nat.sub_self]
    rfl
  · intro same
    have copy₂ : copyIn u.params.capacity m u.inIndex.toNat (serialize u.params.byteOrder ws) =
      some (m₂, ringOffset u.params.capacity u.inIndex.toNat (ws.length * 4)) := copy₂
    rw [same, ← storage, copy₁] at copy₂
    simpa using copy₂.symm

/-- GET reads bytes of the window only. -/
theorem getWords_twin (out_lt : s.outIndex.toNat < s.params.capacity)
    (window : (s.restaled m e).window = s.window) {b : Nat} (enough : b ≤ s.count.toNat) :
    OutcomeRel (StaleTwin s m e) (getWords s b) (getWords (s.restaled m e) b) := by
  rw [getWords_eq s b out_lt, getWords_eq (s.restaled m e) b out_lt, ← window_take s enough,
    ← window_take (s.restaled m e) enough, window]
  refine .next ⟨m, ?_, id⟩
  rw [show ((s.commitGet _ _).answer _).epoch = s.epoch + 1 from rfl, Nat.add_sub_cancel_left]
  rfl

theorem execPut_twin (hs : s.BlockInv) (src : Option (List Word)) (wc : Int) :
    OutcomeRel (StaleTwin s m e) (execPut src wc s) (execPut src wc (s.restaled m e)) := by
  unfold execPut
  split
  · refine .unlessFaulted ?_
    split
    · exact .untouched (u := s.raised .badCount) rfl rfl
    · cases src with
      | none => exact .untouched (u := s.raised .nullBuf) rfl rfl
      | some ws =>
        dsimp only
        split
        · exact .untouched (u := s.raised .badFrame) rfl rfl
        · rw [ensureReady_restaled]
          exact putWords_twin s.ensureReady_storage s.ensureReady_epoch
            (hs.ensureReady.ring s.ensureReady_ready).in_lt ws
  · exact .refused _

theorem execGet_twin (hs : s.BlockInv)
    (window : s.ready = true → (s.restaled m e).window = s.window) (wc : Int) :
    OutcomeRel (StaleTwin s m e) (execGet wc s) (execGet wc (s.restaled m e)) := by
  unfold execGet
  rw [show (s.restaled m e).ready = s.ready from rfl, show (s.restaled m e).count = s.count from rfl]
  split
  · refine .unlessFaulted ?_
    split
    · exact .untouched (u := s.raised .badCount) rfl rfl
    · split
      · rename_i hr
        split
        · exact .untouched (u := s.answer .errNoData) rfl rfl
        · rename_i enough
          exact getWords_twin (hs.ring hr).out_lt (window hr) (Nat.not_lt.mp enough)
      · exact .untouched (u := s.raised .uninit) rfl rfl
  · exact .refused _

theorem execOcc_twin : OutcomeRel (StaleTwin s m e) (execOcc s) (execOcc (s.restaled m e)) := by
  unfold execOcc
  rw [show (s.restaled m e).ready = s.ready from rfl]
  refine .unlessFaulted ?_
  split
  · exact .untouched (u := s.answer (.ok [s.count])) rfl rfl
  · exact .untouched (u := s.raised .uninit) rfl rfl

/-- No command tells two blocks with one window apart. -/
theorem exec_twin (hs : s.BlockInv)
    (window : s.ready = true → (s.restaled m e).window = s.window) (i : Instr) :
    OutcomeRel (StaleTwin s m e) (exec i s) (exec i (s.restaled m e)) := by
  cases i with
  | init =>
    refine .unlessFaulted ?_
    rw [ensureReady_restaled]
    exact .untouched (u := s.ensureReady.answer (.ok [])) s.ensureReady_storage s.ensureReady_epoch
  | put src wc => exact execPut_twin hs src wc
  | get wc => exact execGet_twin hs window wc
  | occ => exact execOcc_twin
  | deinit => exact .unlessFaulted (.untouched (u := s.answer (.ok [])) rfl rfl)

end

/-- A command that leaves the block faulted leaves the queue. -/
theorem ExecResult.queue_of_fault {s t : State} {i : Instr} (h : ExecResult s t i)
    (hf : t.fault = true) : t.queue = s.queue := by
  cases h with
  | answered i a h => rw [h, queue_answer]
  | raised i c nf h => rw [h, queue_raised]
  | initialised nf nr h => simp [h, nf] at hf
  | written ws m ii nf ne le copy h => simp [h, nf, State.put] at hf
  | read wc bytes oi nf r pos le enough copy h => simp [h, nf, State.got] at hf

/-- The queue after a command is decided by the queue before it and the command. -/
theorem queue_eq_of_exec {i : Instr} {s t s' t' : State} (hs : s.BlockInv) (ht : t.BlockInv)
    (params : t.params = s.params) (queue : t.queue = s.queue) (fault : t'.fault = s'.fault)
    (es : exec i s = .next s') (et : exec i t = .next t') : t'.queue = s'.queue := by
  cases hf : s'.fault with
  | true =>
    rw [(exec_result i s s' es).queue_of_fault hf,
      (exec_result i t t' et).queue_of_fault (fault.trans hf), queue]
  | false =>
    obtain ⟨a, -, qs⟩ := (exec_completes es hf).refines hs
    obtain ⟨b, -, qt⟩ := (exec_completes et (fault.trans hf)).refines ht
    rw [params, queue, qs] at qt
    exact congrArg Prod.fst qt.symm

/-- Settles O36: the two blocks stay alike up to storage and draws, and the queue of each is R37's. -/
theorem staleBytesAreNeverObserved : Obligations.StaleBytesAreNeverObserved := by
  intro i s m e t hs ht queue
  have twin : OutcomeRel (StaleTwin s m e) (exec i s) (exec i t) := by
    refine exec_twin hs (fun hr => ?_) i
    rw [← queue_of_ready s hr, ← queue]
    exact (queue_of_ready t hr).symm
  refine ⟨fun s' h => ?_, fun r h => ?_, fun r h => ?_⟩
  · rw [h] at twin
    obtain ⟨t', ht', m', rfl, -⟩ := twin.next_left
    exact ⟨_, ht', rfl, queue_eq_of_exec hs ht rfl queue rfl h ht'⟩
  · rw [h] at twin
    exact twin.fault_left
  · rw [h] at twin
    exact twin.refused_left

/-- With other free contents the window is the same: each of its bytes is written. -/
theorem State.BlockInv.restaled_window {s : State} (h : s.BlockInv) (hr : s.ready = true)
    (e : Nat) : (s.restaled s.storage e).window = s.window :=
  (h.congr (t := s.restaled s.storage e) rfl rfl rfl rfl rfl rfl rfl rfl).window_eq hr
    (window_length s) fun _ hj => (h.window_getElem? hr hj).symm

/-- Settles O38: two blocks with one storage and one window stay alike up to the draws. -/
theorem freeContentsAreNeverObserved : Obligations.FreeContentsAreNeverObserved := by
  intro i s e hs
  refine (exec_twin hs (fun hr => hs.restaled_window hr e) i).eq_andThen ?_
  rintro u v ⟨m', rfl, same⟩
  rw [same rfl]
  rfl

/-! ## Which bytes are stale after a GET -/

theorem byteAt_of_not_ready (s : State) (a : Nat) (h : s.ready = false) :
    s.byteAt a = Config.staleByte s.epoch a :=
  byteAt_of_stale s a (by simp [State.resident, h])

/-- A GET that finds its bytes. -/
theorem exec_get_got {s : State} {wc : Int} {bytes : List Byte} {oi : Nat} (nf : s.fault = false)
    (hr : s.ready = true) (pos : 0 < wc) (le : wc ≤ 8388607) (enough : byteCount wc ≤ s.count.toNat)
    (copy : copyOut s s.outIndex.toNat (byteCount wc) = some (bytes, oi)) :
    exec (.get wc) s = .next (s.got bytes (byteCount wc) oi) := by
  have hwc : wcExpressible wc = true := (wcExpressible_iff wc).mpr (by omega)
  simp [exec, execGet, hwc, unlessFaulted_of_not_fault s _ nf, Int.not_le.mpr pos, hr,
    Nat.not_lt.mpr enough, getWords, copy, respond, State.got]

section
variable {s : State} {bytes : List Byte} {b oi : Nat}

/-- Every offset outside the rest of the window is stale after a GET of `b` bytes. -/
theorem State.BlockInv.got_byteAt_stale (h : s.BlockInv) (hr : s.ready = true)
    (enough : b ≤ s.count.toNat) (copy : copyOut s s.outIndex.toNat b = some (bytes, oi)) {a : Nat}
    (gone : ∀ j, b ≤ j → j < s.count.toNat →
      ringOffset s.params.capacity s.outIndex.toNat j ≠ a) :
    (s.got bytes b oi).byteAt a = Config.staleByte (s.got bytes b oi).epoch a := by
  obtain ⟨hcount, hout⟩ := (h.ring hr).got_registers copy
  refine byteAt_of_stale _ a (Bool.eq_false_iff.mpr fun resident => ?_)
  obtain ⟨-, -, j, hj, hja⟩ :=
    (resident_iff _ a ((h.ring hr).got enough copy).out_lt).mp resident
  rw [hcount] at hj
  rw [hout, show (s.got bytes b oi).params = s.params from rfl, ringOffset_ringOffset] at hja
  exact gone (b + j) (by omega) (by omega) hja

/-- The bytes that stay in the window keep their values. -/
theorem State.BlockInv.got_byteAt_kept (h : s.BlockInv) (hr : s.ready = true)
    (enough : b ≤ s.count.toNat) (copy : copyOut s s.outIndex.toNat b = some (bytes, oi)) {j : Nat}
    (past : b ≤ j) (hj : j < s.count.toNat) :
    (s.got bytes b oi).byteAt (ringOffset s.params.capacity s.outIndex.toNat j) =
      s.byteAt (ringOffset s.params.capacity s.outIndex.toNat j) := by
  obtain ⟨hcount, hout⟩ := (h.ring hr).got_registers copy
  have after := (h.got hr enough copy).read_eq_byteAt hr (j := j - b) (by omega)
  rw [hout, show (s.got bytes b oi).params = s.params from rfl, ringOffset_ringOffset,
    Nat.add_sub_cancel' past] at after
  exact Option.some.inj (after.symm.trans (h.read_eq_byteAt hr hj))

end

/-- Settles O37: only the offsets from the new read pointer on are resident after a GET, and no consumed
byte stands at one of them. -/
theorem consumedBytesBecomeStale : Obligations.ConsumedBytesBecomeStale := by
  refine ⟨fun s k h nf hr pos le enough => ?_, byteAt_of_not_ready⟩
  have count_le := (h.ring hr).count_le
  have hb : byteCount (k : Int) = 4 * k := Nat.mul_comm k 4
  have copy := copyOut_eq s s.outIndex.toNat (4 * k) (h.ring hr).out_lt
  have get := exec_get_got (wc := k) nf hr (by omega) (by omega) (hb ▸ enough) (hb ▸ copy)
  rw [hb] at get
  refine ⟨_, get, Nat.succ_ne_self _, fun j hj => ?_, fun a out => ?_, fun j past hj => ?_⟩
  · refine h.got_byteAt_stale hr enough copy fun l past hl e => ?_
    have := ringOffset_inj e (by omega) (by omega)
    omega
  · exact h.got_byteAt_stale hr enough copy fun l _ hl => out l hl
  · exact h.got_byteAt_kept hr enough copy past hj

end Sys2Proof.Machine

/-! # The statements of 20_memory.md: words through the ring, the byte order, and the requesters' turns -/

namespace Sys2Proof.Machine

/-! ## The words of a byte sequence -/

theorem wordsOf_append (o : ByteOrder) (bs cs : List Byte) (h : bs.length % 4 = 0) :
    wordsOf o (bs ++ cs) = wordsOf o bs ++ wordsOf o cs := by
  match bs with
  | [] => rfl
  | [_] | [_, _] | [_, _, _] => simp at h
  | b0 :: b1 :: b2 :: b3 :: rest =>
    exact congrArg (_ :: ·) (wordsOf_append o rest cs (by simp only [List.length_cons] at h; omega))

theorem wordsOf_serialize (o : ByteOrder) (ws : List Word) : wordsOf o (serialize o ws) = ws := by
  simpa [wordsOf] using wordsOf_serialize_append o ws []

/-- The first `4k` bytes make the first `k` words. -/
theorem wordsOf_take (o : ByteOrder) (bs : List Byte) (k : Nat) :
    wordsOf o (bs.take (k * 4)) = (wordsOf o bs).take k := by
  induction k generalizing bs with
  | zero => rfl
  | succ k ih =>
    rw [Nat.succ_mul]
    match bs with
    | [] | [_] | [_, _] | [_, _, _] => rfl
    | b0 :: b1 :: b2 :: b3 :: rest => exact congrArg (_ :: ·) (ih rest)

/-- Without the first `4k` bytes, the first `k` words are missing. -/
theorem wordsOf_drop (o : ByteOrder) (bs : List Byte) (k : Nat) :
    wordsOf o (bs.drop (k * 4)) = (wordsOf o bs).drop k := by
  induction k generalizing bs with
  | zero => rfl
  | succ k ih =>
    rw [Nat.succ_mul]
    match bs with
    | [] | [_] | [_, _] | [_, _, _] => simp [wordsOf]
    | b0 :: b1 :: b2 :: b3 :: rest => exact ih rest

/-! ## The words of the window -/

@[simp] theorem residentWords_answer (s : State) (a : Response) :
    (s.answer a).residentWords = s.residentWords := rfl

@[simp] theorem residentWords_ensureReady (s : State) :
    s.ensureReady.residentWords = s.residentWords := by
  simp [State.residentWords]

theorem residentWords_of_ready (s : State) (h : s.ready = true) :
    s.residentWords = wordsOf s.params.byteOrder s.window := by
  rw [State.residentWords, queue_of_ready s h]

/-- On a ring of whole words PUT appends its words and evicts whole words, the oldest first. -/
theorem State.BlockInv.put_residentWords {s : State} (h : s.BlockInv) (hr : s.ready = true)
    (hn : s.params.WordAligned) (ha : s.Aligned) {ws : List Word} {m : Memory} {ii : Nat}
    (copy : copyIn s.params.capacity s.storage s.inIndex.toNat
      (serialize s.params.byteOrder ws) = some (m, ii)) :
    (s.put ws m ii).residentWords = (s.residentWords ++ ws).drop
      (evicted s.params.capacity s.count.toNat (ws.length * 4) / 4) := by
  obtain ⟨hc, -, -⟩ := ha hr
  have whole : s.window.length + ws.length * 4 - s.params.capacity =
      evicted s.params.capacity s.count.toNat (ws.length * 4) / 4 * 4 := by
    unfold Params.WordAligned at hn
    rw [window_length, evicted]
    omega
  rw [residentWords_of_ready (s.put ws m ii) hr, h.put_window hr copy, takeLast, List.length_append,
    serialize_length, whole, wordsOf_drop, residentWords_of_ready s hr,
    show (s.put ws m ii).params = s.params from rfl, wordsOf_append _ _ _ (by simpa using hc),
    wordsOf_serialize]

/-- GET takes the oldest words off. -/
theorem State.BlockInv.got_residentWords {s : State} (h : s.BlockInv) (hr : s.ready = true)
    {bytes : List Byte} {k oi : Nat} (enough : k * 4 ≤ s.count.toNat)
    (copy : copyOut s s.outIndex.toNat (k * 4) = some (bytes, oi)) :
    (s.got bytes (k * 4) oi).residentWords = s.residentWords.drop k := by
  rw [residentWords_of_ready (s.got bytes (k * 4) oi) hr, h.got_window hr enough copy,
    residentWords_of_ready s hr, ← wordsOf_drop]
  rfl

/-- The bytes that GET copies out make the oldest words. -/
theorem State.RingInv.copyOut_words {s : State} (g : s.RingInv) (hr : s.ready = true)
    {bytes : List Byte} {k oi : Nat} (enough : k * 4 ≤ s.count.toNat)
    (copy : copyOut s s.outIndex.toNat (k * 4) = some (bytes, oi)) :
    wordsOf s.params.byteOrder bytes = s.residentWords.take k := by
  obtain ⟨rfl, -⟩ : _ = bytes ∧ _ = oi := by simpa [copyOut_eq s _ _ g.out_lt] using copy
  rw [← window_take s enough, wordsOf_take, residentWords_of_ready s hr]

/-! ## Answers of a faulted block -/

theorem unlessFaulted_next_faulted {s t : State} {o : Host.Outcome State Fault Refusal}
    (h : unlessFaulted s o = .next t) (hf : s.fault = true) : t = s.answer (.fatal s.fcause) := by
  rw [unlessFaulted_of_fault s o hf] at h
  injection h with h
  exact h.symm

/-- A faulted block answers every command with the stored cause. -/
theorem exec_of_fault {i : Instr} {s t : State} (h : exec i s = .next t) (hf : s.fault = true) :
    t = s.answer (.fatal s.fcause) := by
  cases i with
  | init | occ | deinit => exact unlessFaulted_next_faulted h hf
  | put src wc =>
    simp only [exec, execPut] at h
    split at h
    · exact unlessFaulted_next_faulted h hf
    · cases h
  | get wc =>
    simp only [exec, execGet] at h
    split at h
    · exact unlessFaulted_next_faulted h hf
    · cases h

/-- A command that leaves the block faulted is answered FATAL with the cause that stands there: the fault
is an older one, or the command's own. -/
theorem exec_fatal {i : Instr} {s t : State} (h : exec i s = .next t) (hf : t.fault = true) :
    t.response = some (.fatal t.fcause) := by
  cases nf : s.fault with
  | true =>
    rw [exec_of_fault h nf]
    rfl
  | false =>
    cases exec_result i s t h with
    | answered _ a e => simp [e, nf] at hf
    | raised _ c _ e => simp [e]
    | initialised _ nr e => simp [e, nf] at hf
    | written ws m ii _ ne le copy e => simp [e, nf, State.put] at hf
    | read wc bytes oi _ r pos le enough copy e => simp [e, nf, State.got] at hf

/-! ## Words read are words resident or written -/

/-- What a command reads, and the words it leaves, are resident before it or written by it. -/
theorem Completes.words_sublist {s t : State} {i : Instr} (h : Completes s t i)
    (hn : s.params.WordAligned) (hs : s.BlockInv) (ha : s.Aligned) :
    (readBy i t.response ++ t.residentWords).Sublist
      (s.residentWords ++ writtenBy i t.response) := by
  cases h with
  | init h =>
    rw [h, residentWords_answer, residentWords_ensureReady]
    exact List.sublist_append_left _ _
  | put ws m ii copy h =>
    rw [h, hs.ensureReady.put_residentWords s.ensureReady_ready (by simpa using hn)
      ha.ensureReady (by simpa using copy), residentWords_ensureReady]
    exact List.drop_sublist _ _
  | noData wc r short h => exact h ▸ List.sublist_append_left _ _
  | got wc bytes oi r enough copy h =>
    have read : readBy (.get wc) t.response = s.residentWords.take wc.toNat := by
      rw [h]
      exact (hs.ring r).copyOut_words r enough copy
    have left : t.residentWords = s.residentWords.drop wc.toNat :=
      h ▸ hs.got_residentWords r enough copy
    rw [read, left, List.take_append_drop]
    exact List.sublist_append_left _ _
  | occ r h => exact h ▸ List.sublist_append_left _ _
  | deinit h => exact h ▸ List.sublist_append_left _ _

/-- The same of every command: one that leaves the block faulted reads nothing and keeps the window. -/
theorem exec_words_sublist {i : Instr} {s t : State} (hn : s.params.WordAligned) (hs : s.BlockInv)
    (ha : s.Aligned) (h : exec i s = .next t) :
    (readBy i t.response ++ t.residentWords).Sublist
      (s.residentWords ++ writtenBy i t.response) := by
  cases hf : t.fault with
  | true =>
    have result := exec_result i s t h
    have kept : t.residentWords = s.residentWords := by
      rw [State.residentWords, State.residentWords, result.queue_of_fault hf, result.params_eq]
    have nothing : readBy i t.response = [] := by
      rw [exec_fatal h hf]
      cases i <;> rfl
    rw [kept, nothing]
    exact List.sublist_append_left _ _
  | false => exact (exec_completes h hf).words_sublist hn hs ha

/-- Settles O35, by induction over the commands: what the first one reads comes before what it leaves,
and the later ones read from what it leaves and what they write. -/
theorem readsAreASubsequenceOfWrites : Obligations.ReadsAreASubsequenceOfWrites := by
  intro cmds
  induction cmds with
  | nil => exact fun s _ _ _ => List.nil_sublist _
  | cons i rest ih =>
    intro s hn hs ha
    unfold history
    cases h : exec i s with
    | next t =>
      have result := exec_result i s t h
      have later := ih t (result.params_eq ▸ hn) (result.blockInv hs) (result.aligned hn hs ha)
      have first := exec_words_sublist hn hs ha h
      calc (readBy i t.response ++ (history rest t).2).Sublist
            (readBy i t.response ++ (t.residentWords ++ (history rest t).1)) :=
              later.append_left _
        _ = readBy i t.response ++ t.residentWords ++ (history rest t).1 :=
              (List.append_assoc _ _ _).symm
        List.Sublist _ (s.residentWords ++ writtenBy i t.response ++ (history rest t).1) :=
              first.append_right _
        _ = s.residentWords ++ (writtenBy i t.response ++ (history rest t).1) :=
              List.append_assoc _ _ _
    | fault r => exact List.nil_sublist _
    | refused r => exact List.nil_sublist _

/-! ## Two blocks that differ in the byte order -/

/-- Two blocks that no requester can tell apart, with the same answer to the command executed last. -/
structure SameAnswered (u v : State) : Prop extends SameToRequesters u v where
  response : u.response = v.response

section
variable {s t : State}

theorem SameToRequesters.answer (h : SameToRequesters s t) (a : Response) :
    SameAnswered (s.answer a) (t.answer a) :=
  ⟨⟨h.capacity, h.count, h.inIndex, h.outIndex, h.ready, h.fault, h.fcause, h.words⟩, rfl⟩

theorem SameToRequesters.raised (h : SameToRequesters s t) (c : Cause) :
    SameAnswered (s.raised c) (t.raised c) :=
  ⟨⟨h.capacity, h.count, h.inIndex, h.outIndex, h.ready, rfl, rfl, h.words⟩, rfl⟩

theorem SameToRequesters.ensureReady (h : SameToRequesters s t) :
    SameToRequesters s.ensureReady t.ensureReady where
  capacity := by simpa using h.capacity
  count := by rw [State.ensureReady_count, State.ensureReady_count, h.ready, h.count]
  inIndex := by rw [State.ensureReady_inIndex, State.ensureReady_inIndex, h.ready, h.inIndex]
  outIndex := by rw [State.ensureReady_outIndex, State.ensureReady_outIndex, h.ready, h.outIndex]
  ready := by simp
  fault := by simpa using h.fault
  fcause := by simpa using h.fcause
  words := by simpa using h.words

theorem SameToRequesters.wordAligned (h : SameToRequesters s t) (hn : s.params.WordAligned) :
    t.params.WordAligned := by
  rwa [Params.WordAligned, ← h.capacity]

theorem SameToRequesters.aligned (h : SameToRequesters s t) (ha : s.Aligned) : t.Aligned := by
  unfold State.Aligned
  rwa [← h.ready, ← h.count, ← h.inIndex, ← h.outIndex]

theorem SameToRequesters.unlessFaulted_same (h : SameToRequesters s t)
    {o o' : Host.Outcome State Fault Refusal} (body : OutcomeRel SameAnswered o o') :
    OutcomeRel SameAnswered (unlessFaulted s o) (unlessFaulted t o') := by
  cases hf : s.fault with
  | true =>
    rw [unlessFaulted_of_fault s o hf, unlessFaulted_of_fault t o' (h.fault ▸ hf), h.fcause]
    exact .next (h.answer _)
  | false =>
    rwa [unlessFaulted_of_not_fault s o hf, unlessFaulted_of_not_fault t o' (h.fault ▸ hf)]

/-- PUT appends the same words to both windows, and the registers do not look at the bytes. -/
theorem SameToRequesters.putWords_same (h : SameToRequesters s t) (hs : s.BlockInv) (ht : t.BlockInv)
    (hr : s.ready = true) (hn : s.params.WordAligned) (ha : s.Aligned) (ws : List Word) :
    OutcomeRel SameAnswered (putWords s ws) (putWords t ws) := by
  have hrt : t.ready = true := h.ready ▸ hr
  obtain ⟨m, copy, put⟩ := putWords_eq s ws (hs.ring hr).in_lt
  obtain ⟨m', copy', put'⟩ := putWords_eq t ws (ht.ring hrt).in_lt
  have words := hs.put_residentWords hr hn ha copy
  rw [h.words, h.capacity, h.count,
    ← ht.put_residentWords hrt (h.wordAligned hn) (h.aligned ha) copy'] at words
  rw [put, put']
  refine .next ⟨⟨h.capacity, ?_, ?_, ?_, h.ready, h.fault, h.fcause, ?_⟩, rfl⟩
  · simp [h.capacity, h.count]
  · simp [h.capacity, h.inIndex]
  · simp [h.capacity, h.count, h.outIndex]
  · simpa only [State.put, h.capacity] using words

/-- GET takes the same words off both windows. -/
theorem SameToRequesters.getWords_same (h : SameToRequesters s t) (hs : s.BlockInv) (ht : t.BlockInv)
    (hr : s.ready = true) {k : Nat} (enough : k * 4 ≤ s.count.toNat) :
    OutcomeRel SameAnswered (getWords s (k * 4)) (getWords t (k * 4)) := by
  have hrt : t.ready = true := h.ready ▸ hr
  have enough' : k * 4 ≤ t.count.toNat := h.count ▸ enough
  have copy := copyOut_eq s _ (k * 4) (hs.ring hr).out_lt
  have copy' := copyOut_eq t _ (k * 4) (ht.ring hrt).out_lt
  have words := hs.got_residentWords hr enough copy
  rw [h.words, ← ht.got_residentWords hrt enough' copy'] at words
  have read := (hs.ring hr).copyOut_words hr enough copy
  rw [h.words, ← (ht.ring hrt).copyOut_words hrt enough' copy'] at read
  rw [getWords_eq s _ (hs.ring hr).out_lt, getWords_eq t _ (ht.ring hrt).out_lt]
  refine .next ⟨⟨h.capacity, ?_, h.inIndex, ?_, h.ready, h.fault, h.fcause, words⟩, ?_⟩
  · simp [h.count]
  · simp [h.capacity, h.outIndex]
  · exact congrArg (some <| Response.ok ·) read

theorem SameToRequesters.execPut_same (h : SameToRequesters s t) (hs : s.BlockInv) (ht : t.BlockInv)
    (hn : s.params.WordAligned) (ha : s.Aligned) (src : Option (List Word)) (wc : Int) :
    OutcomeRel SameAnswered (execPut src wc s) (execPut src wc t) := by
  unfold execPut
  split
  · refine h.unlessFaulted_same ?_
    split
    · exact .next (h.raised _)
    · cases src with
      | none => exact .next (h.raised _)
      | some ws =>
        dsimp only
        split
        · exact .next (h.raised _)
        · exact h.ensureReady.putWords_same hs.ensureReady ht.ensureReady s.ensureReady_ready
            (by simpa using hn) ha.ensureReady ws
  · exact .refused _

theorem SameToRequesters.execGet_same (h : SameToRequesters s t) (hs : s.BlockInv) (ht : t.BlockInv)
    (wc : Int) : OutcomeRel SameAnswered (execGet wc s) (execGet wc t) := by
  unfold execGet
  rw [← h.ready, ← h.count]
  split
  · refine h.unlessFaulted_same ?_
    split
    · exact .next (h.raised _)
    · split
      · rename_i hr
        split
        · exact .next (h.answer _)
        · rename_i enough
          exact h.getWords_same hs ht hr (Nat.not_lt.mp enough)
      · exact .next (h.raised _)
  · exact .refused _

theorem SameToRequesters.execOcc_same (h : SameToRequesters s t) :
    OutcomeRel SameAnswered (execOcc s) (execOcc t) := by
  unfold execOcc
  rw [← h.ready, ← h.count]
  refine h.unlessFaulted_same ?_
  split
  · exact .next (h.answer _)
  · exact .next (h.raised _)

/-- No command tells two blocks apart that hold the same words, each in its own byte order. -/
theorem SameToRequesters.exec_same (h : SameToRequesters s t) (hs : s.BlockInv) (ht : t.BlockInv)
    (hn : s.params.WordAligned) (ha : s.Aligned) (i : Instr) :
    OutcomeRel SameAnswered (exec i s) (exec i t) := by
  cases i with
  | init => exact h.unlessFaulted_same (.next (h.ensureReady.answer _))
  | put src wc => exact h.execPut_same hs ht hn ha src wc
  | get wc => exact h.execGet_same hs ht wc
  | occ => exact h.execOcc_same
  | deinit => exact h.unlessFaulted_same (.next (h.answer _))

end

/-- Settles O39: on a ring of whole words PUT and GET move whole words, and nothing else looks at the
bytes. -/
theorem byteOrderIsUnobservable : Obligations.ByteOrderIsUnobservable := by
  intro i s t s' hn hs ht ha h es
  have same := h.exec_same hs ht hn ha i
  rw [es] at same
  obtain ⟨t', et, alike⟩ := same.next_left
  exact ⟨t', et, alike.response, alike.toSameToRequesters⟩

/-! ## Repeating a command -/

theorem State.answer_of_response {s : State} {a : Response} (h : s.response = some a) :
    s.answer a = s := by
  rw [State.answer, ← h]

/-- A faulted block that has answered its cause answers it again. -/
theorem unlessFaulted_repeated {s : State} {o : Host.Outcome State Fault Refusal}
    (hf : s.fault = true) (h : s.response = some (.fatal s.fcause)) :
    unlessFaulted s o = .next s := by
  rw [unlessFaulted_of_fault s o hf, State.answer_of_response h]

theorem exec_init_of_ready {s : State} (nf : s.fault = false) (hr : s.ready = true) :
    exec .init s = .next (s.answer (.ok [])) := by
  simp [exec, execInit, unlessFaulted_of_not_fault s _ nf, s.ensureReady_of_ready hr, respond]

theorem exec_deinit_of_not_fault {s : State} (nf : s.fault = false) :
    exec .deinit s = .next (s.answer (.ok [])) := by
  simp [exec, execDeinit, unlessFaulted_of_not_fault s _ nf, respond]

theorem exec_occ_of_ready {s : State} (nf : s.fault = false) (hr : s.ready = true) :
    exec .occ s = .next (s.answer (.ok [s.count])) := by
  simp [exec, execOcc, unlessFaulted_of_not_fault s _ nf, hr, respond]

/-- A GET that does not find its bytes. -/
theorem exec_get_noData {s : State} {wc : Int} (hwc : wcExpressible wc = true)
    (nf : s.fault = false) (hr : s.ready = true) (short : s.count.toNat < byteCount wc) :
    exec (.get wc) s = .next (s.answer .errNoData) := by
  have pos : 0 < wc := by
    unfold byteCount at short
    omega
  simp [exec, execGet, hwc, unlessFaulted_of_not_fault s _ nf, Int.not_le.mpr pos, hr, short,
    respond]

theorem wcExpressible_of_exec_get {s t : State} {wc : Int} (h : exec (.get wc) s = .next t) :
    wcExpressible wc = true := by
  by_contra hwc
  simp [exec, execGet, hwc] at h

/-- Settles O32: each of these commands leaves a block in which it finds what it found before, or whose
fault it answers once more. -/
theorem repeatingIsIdempotent : Obligations.RepeatingIsIdempotent := by
  intro i s t h which
  cases hf : t.fault with
  | true =>
    have fatal := exec_fatal h hf
    rcases which with rfl | rfl | rfl | ⟨-, noData⟩
    · exact unlessFaulted_repeated hf fatal
    · exact unlessFaulted_repeated hf fatal
    · exact unlessFaulted_repeated hf fatal
    · rw [fatal] at noData
      cases noData
  | false =>
    cases exec_completes h hf with
    | init e =>
      rw [exec_init_of_ready hf (by simp [e]), State.answer_of_response (by simp [e])]
    | put ws m ii copy e => simp at which
    | noData wc r short e =>
      rw [exec_get_noData (wcExpressible_of_exec_get h) hf (by simp [e, r]) (by simpa [e] using short),
        State.answer_of_response (by simp [e])]
    | got wc bytes oi r enough copy e => simp [e, State.got] at which
    | occ r e =>
      rw [exec_occ_of_ready hf (by simp [e, r]), State.answer_of_response (by simp [e])]
    | deinit e =>
      rw [exec_deinit_of_not_fault hf, State.answer_of_response (by simp [e])]

/-! ## The turn of a requester -/

theorem withRequester_getElem?_self {s : State} {k : Nat} {r : Requester}
    (hr : s.requesters[k]? = some r) (q : Requester) :
    (s.withRequester k q).requesters[k]? = some q :=
  List.getElem?_set_self (List.getElem?_eq_some_iff.mp hr).1

theorem withRequester_getElem?_ne (s : State) {j k : Nat} (h : j ≠ k) (q : Requester) :
    (s.withRequester k q).requesters[j]? = s.requesters[j]? :=
  List.getElem?_set_ne h.symm

@[simp] theorem Requester.answered_port (p : Params) (r : Requester) (a : Response) :
    (r.answered p a).port = none := by
  unfold Requester.answered
  split <;> rfl

@[simp] theorem Requester.answered_work (p : Params) (r : Requester) (a : Response) :
    (r.answered p a).work = r.work := by
  unfold Requester.answered
  split <;> rfl

@[simp] theorem Requester.answered_received (p : Params) (r : Requester) (a : Response) :
    (r.answered p a).received = r.received ++ [a] := by
  unfold Requester.answered
  split <;> rfl

/-- The answer is handed to the requester that stands in place `k`. -/
theorem deliver_eq {k : Nat} {s : State} {r : Requester} {a : Response}
    (hr : s.requesters[k]? = some r) (ha : s.response = some a) :
    deliver k s = s.withRequester k (r.answered s.params a) := by
  simp [deliver, hr, ha]

/-- Every command that does not stop is answered. -/
theorem ExecResult.responds {s t : State} {i : Instr} (h : ExecResult s t i) :
    ∃ a, t.response = some a := by
  cases h with
  | answered i a h => subst h; exact ⟨_, rfl⟩
  | raised i c nf h => subst h; exact ⟨_, rfl⟩
  | initialised nf nr h => subst h; exact ⟨_, rfl⟩
  | written ws m ii nf ne le copy h => subst h; exact ⟨_, rfl⟩
  | read wc bytes oi nf r pos le enough copy h => subst h; exact ⟨_, rfl⟩

/-- A requester with a free port that can move puts its next frame there; starting a job may read the
time source besides. -/
theorem issue_eq {k : Nat} {r : Requester} (s : State) (hp : r.port = none)
    (active : r.active = true) :
    ∃ (u : State) (q : Requester), issue k r s = u.withRequester k q ∧ u.requesters = s.requesters ∧
      q.port.isSome = true ∧ q.received = r.received := by
  unfold issue
  cases task : r.task with
  | some t => exact ⟨s, r.issuing t, rfl, rfl, rfl, rfl⟩
  | none =>
    cases work : r.work with
    | nil => simp [Requester.active, hp, task, work] at active
    | cons j rest => exact ⟨jobStarted s j, _, rfl, jobStarted_requesters s j, rfl, rfl⟩

section
variable {s : State} {k : Nat} {r : Requester}

theorem executeFrame_of_legal {f : Frame} {i : Instr} (h : decode f = .ok i) :
    executeFrame f s = exec i s := by
  simp [executeFrame, h]

theorem executeFrame_of_illegal {f : Frame} {c : Cause} (h : decode f = .error c) :
    executeFrame f s = unlessFaulted s (raiseFatal s c) := by
  simp [executeFrame, h]

/-- The step of a requester that has a frame on its port. -/
theorem step_of_port {f : Frame} (nr : s.noResetNext) (next : s.nextTurn = some k)
    (hr : s.requesters[k]? = some r) (hp : r.port = some f) :
    step s = andThen (executeFrame f s.turnTaken) (deliver k) := by
  simp [step_of_no_reset s nr, requesterMove, next, turn, hr, hp]

/-- The step of a requester whose port is free. -/
theorem step_of_free_port (nr : s.noResetNext) (next : s.nextTurn = some k)
    (hr : s.requesters[k]? = some r) (hp : r.port = none) :
    step s = .next (issue k r s.turnTaken) := by
  simp [step_of_no_reset s nr, requesterMove, next, turn, hr, hp]

end

/-- Settles O44: the command touches no requester, and its answer is delivered to the one place. -/
theorem answerGoesToTheIssuer : Obligations.AnswerGoesToTheIssuer := by
  intro s t k r f nr next hr hp h
  rw [step_of_port nr next hr hp] at h
  obtain ⟨u, hu, rfl⟩ := andThen_next _ _ _ h
  obtain ⟨i, result⟩ := executeFrame_result f _ u hu
  obtain ⟨a, ha⟩ := result.responds
  have requesters : u.requesters = s.requesters :=
    result.requesters_eq.trans s.turnTaken_requesters
  rw [← requesters] at hr
  rw [deliver_eq hr ha, ← requesters]
  exact ⟨⟨r.answered u.params a, a, withRequester_getElem?_self hr _, by simp, by simp, by simp, ha⟩,
    fun j hj => withRequester_getElem?_ne u hj _⟩

/-- Settles O45: such a step is the issuing alone, which replaces one requester. -/
theorem issuingACommandChangesNoBlockState : Obligations.IssuingACommandChangesNoBlockState := by
  intro s k r nr next hr hp
  obtain ⟨r', hr', active⟩ := nextTurn_active s k next
  obtain rfl : r = r' := Option.some.inj (hr.symm.trans hr')
  have block := (sameBlock_turnTaken s).trans (sameBlock_issue k r s.turnTaken)
  obtain ⟨u, q, issued, requesters, port, received⟩ := issue_eq (k := k) s.turnTaken hp active
  rw [State.turnTaken_requesters] at requesters
  refine ⟨_, q, step_of_free_port nr next hr hp, ?_, port, received, fun j hj => ?_,
    block.storage, block.count, block.inIndex, block.outIndex, block.ready, block.fault, block.fcause⟩
  · rw [issued, withRequester_getElem?_self (requesters ▸ hr)]
  · rw [issued, withRequester_getElem?_ne u hj, requesters]

/-- Settles O42: the turn is used up, the decoder says what the frame is, and an illegal one raises its
cause behind the common prologue. -/
theorem stepRunsDecodedInstruction : Obligations.StepRunsDecodedInstruction := by
  intro s k r f nr next hr hp
  rw [step_of_port nr next hr hp]
  refine ⟨fun i hd => by rw [executeFrame_of_legal hd], fun c hd nf => ?_, fun c hd hf => ?_⟩
  · rw [executeFrame_of_illegal hd, unlessFaulted_of_not_fault _ _ (by simpa using nf)]
    rfl
  · rw [executeFrame_of_illegal hd, unlessFaulted_of_fault _ _ (by simpa using hf),
      State.turnTaken_fcause]
    rfl

/-- Settles O46: nobody can move, so nobody has the turn. -/
theorem idleBlockWaits : Obligations.IdleBlockWaits := by
  intro s nr idle
  have nobody : s.nextTurn = none := (nextTurn_eq_none s).mpr fun r hr => by
    obtain ⟨hp, ht, hw⟩ := idle r hr
    simp [Requester.active, hp, ht, hw]
  rw [step_of_no_reset s nr, requesterMove, nobody]
  rfl

/-- Settles O47: a turn that the schedule names goes to the requester named, where that one can move. -/
theorem everyRequesterCanBeNext : Obligations.EveryRequesterCanBeNext := by
  intro s k r hr busy rest
  have active : r.active = true := by simpa [Requester.active, or_assoc] using busy
  exact if_pos ((canMove_iff s.requesters k).mpr ⟨r, hr, active⟩)

/-! ## Fair runs -/

/-- No requester comes or goes in an open run. -/
theorem IsOpenRun.requesters_length {run : Nat → State} (h : IsOpenRun run) (n m : Nat) :
    (run (n + m)).requesters.length = (run n).requesters.length := by
  induction m with
  | zero => rfl
  | succ m ih =>
    obtain ⟨t, ht, supplied⟩ := h (n + m)
    rw [← Nat.add_assoc, ← supplied.work.length_eq, step_requesters_length ht, ih]

/-- The turn of a requester with a frame on its port frees the port, and no supply fills it. -/
theorem IsOpenRun.port_freed {run : Nat → State} (h : IsOpenRun run) {m k : Nat} {r : Requester}
    (nr : (run m).noResetNext) (next : (run m).nextTurn = some k)
    (hr : (run m).requesters[k]? = some r) (hp : r.port.isSome = true) :
    ∃ q, (run (m + 1)).requesters[k]? = some q ∧ q.port = none := by
  obtain ⟨f, hf⟩ := Option.isSome_iff_exists.mp hp
  obtain ⟨t, ht, supplied⟩ := h m
  obtain ⟨⟨q, a, hq, free, -⟩, -⟩ := answerGoesToTheIssuer (run m) t k r f nr next hr hf ht
  have port := supplied.requester k
  rwa [hq, Option.map_some, free, Option.map_eq_some_iff] at port

/-- Settles O48: a command that is never answered stays on its port, so its requester gets the turn, and
that turn answers it. -/
theorem fairArbiterAnswersEveryCommand : Obligations.FairArbiterAnswersEveryCommand := by
  intro run n k r isOpen fair hr hp
  by_contra unanswered
  push Not at unanswered
  have waits : ∀ m, n ≤ m →
      ∃ q : Requester, (run m).requesters[k]? = some q ∧ q.port.isSome = true := by
    intro m hm
    rcases Nat.eq_or_lt_of_le hm with rfl | hlt
    · exact ⟨r, hr, hp⟩
    · have there : k < (run m).requesters.length := by
        rw [← Nat.add_sub_cancel' hm, isOpen.requesters_length]
        exact (List.getElem?_eq_some_iff.mp hr).1
      exact ⟨_, List.getElem?_eq_getElem there,
        Option.isSome_iff_ne_none.mpr (unanswered m _ hlt (List.getElem?_eq_getElem there))⟩
  obtain ⟨m, hm, nr, next⟩ := fair n k waits
  obtain ⟨q, hq, port⟩ := waits m hm
  obtain ⟨q', hq', free⟩ := isOpen.port_freed nr next hq port
  exact unanswered (m + 1) q' (Nat.lt_succ_of_le hm) hq' free

end Sys2Proof.Machine

/-! # The statements of 30_encoding.md: command words, frames and their commands -/

namespace Sys2Proof.Machine

/-! ## The fields of a command word -/

theorem opField_toNat (cw : Word) : (opField cw).toNat = cw.toNat / 268435456 := by
  have := cw.isLt
  simp only [opField, BitVec.extractLsb'_toNat, Nat.shiftRight_eq_div_pow]
  omega

theorem rsvField_toNat (cw : Word) : (rsvField cw).toNat = cw.toNat / 16777216 % 16 := by
  simp [rsvField, Nat.shiftRight_eq_div_pow]

theorem wcField_toNat (cw : Word) : (wcField cw).toNat = cw.toNat % 16777216 := by
  simp [wcField]

theorem commandWord_toNat (op : BitVec 4) (wc : BitVec 24) :
    (commandWord op wc).toNat = op.toNat * 268435456 + wc.toNat := by
  rw [commandWord, BitVec.toNat_append, ← Nat.shiftLeft_add_eq_or_of_lt wc.isLt,
    BitVec.toNat_append, BitVec.toNat_ofNat, Nat.zero_mod, Nat.or_zero]
  simp only [Nat.shiftLeft_eq]
  omega

@[simp] theorem opField_commandWord (op : BitVec 4) (wc : BitVec 24) :
    opField (commandWord op wc) = op := by
  apply BitVec.eq_of_toNat_eq
  rw [opField_toNat, commandWord_toNat]
  omega

@[simp] theorem rsvField_commandWord (op : BitVec 4) (wc : BitVec 24) :
    rsvField (commandWord op wc) = 0#4 := by
  apply BitVec.eq_of_toNat_eq
  rw [rsvField_toNat, commandWord_toNat, BitVec.toNat_ofNat]
  omega

@[simp] theorem wcField_commandWord (op : BitVec 4) (wc : BitVec 24) :
    wcField (commandWord op wc) = wc := by
  apply BitVec.eq_of_toNat_eq
  rw [wcField_toNat, commandWord_toNat]
  omega

/-- A word with no reserved bit set is put together from its opcode and its count. -/
theorem commandWord_fields {cw : Word} (rsv : rsvField cw = 0#4) :
    commandWord (opField cw) (wcField cw) = cw := by
  apply BitVec.eq_of_toNat_eq
  have reserved := congrArg BitVec.toNat rsv
  rw [rsvField_toNat, BitVec.toNat_ofNat] at reserved
  rw [commandWord_toNat, opField_toNat, wcField_toNat]
  omega

/-- R83's sign extension, by arithmetic. -/
theorem signedCount_eq (cw : Word) : signedCount cw = wcOf cw := by
  rw [signedCount, wcOf, BitVec.toInt_eq_toNat_cond, wcField_toNat]
  split <;> split <;> omega

@[simp] theorem wcOf_commandWord (op : BitVec 4) (wc : BitVec 24) :
    wcOf (commandWord op wc) = wc.toInt := by
  rw [wcOf, wcField_commandWord]

/-- Narrowing an expressible count to 24 bits loses nothing. -/
theorem toInt_ofInt_of_wcExpressible {wc : Int} (h : wcExpressible wc = true) :
    (BitVec.ofInt 24 wc).toInt = wc := by
  obtain ⟨lower, upper⟩ := (wcExpressible_iff wc).mp h
  rw [BitVec.toInt_ofInt]
  exact Int.bmod_eq_of_le (by omega) (by omega)

theorem getD_srcOf (payload : List Word) : (srcOf payload).getD [] = payload := by
  cases payload <;> rfl

theorem srcOf_getD {src : Option (List Word)} (h : srcExpressible src = true) :
    srcOf (src.getD []) = src := by
  match src with
  | none => rfl
  | some [] => cases h
  | some (_ :: _) => rfl

theorem srcOf_eq (payload : List Word) :
    srcOf payload = if payload = [] then none else some payload := by
  cases payload <;> rfl

/-- R93's three kinds of illegal word, by the fields the decoder looks at. -/
theorem illegalWord_iff (cw : Word) :
    IllegalWord cw ↔ rsvField cw ≠ 0#4 ∨ (opField cw = 0x0#4 ∨ 0x6#4 ≤ opField cw) ∨
      ((opField cw = 0x1#4 ∨ opField cw = 0x4#4 ∨ opField cw = 0x5#4) ∧ wcField cw ≠ 0#24) := by
  simp only [IllegalWord, ne_eq, BitVec.toNat_eq, BitVec.le_def, opField_toNat, rsvField_toNat,
    wcField_toNat, BitVec.toNat_ofNat, or_assoc]

theorem opField_eq_two_iff (cw : Word) : opField cw = 0x2#4 ↔ cw.toNat / 268435456 = 2 := by
  rw [BitVec.toNat_eq, opField_toNat]
  rfl

/-! ## What the decoder answers -/

theorem decode_put_frame (wc : BitVec 24) (ws : List Word) :
    decode ⟨commandWord 0x2#4 wc, ws⟩ = .ok (.put (srcOf ws) wc.toInt) := by
  simp [decode]

theorem decode_get_frame (wc : BitVec 24) :
    decode ⟨commandWord 0x3#4 wc, []⟩ = .ok (.get wc.toInt) := by
  simp [decode]

theorem decode_of_illegalWord {f : Frame} (h : IllegalWord f.cw) :
    decode f = .error .illegalCmd := by
  rcases (illegalWord_iff f.cw).mp h with rsv | op | count
  · simp [decode, rsv]
  · simp only [decode, if_pos op, ite_self]
  · simp only [decode, if_pos count, ite_self]

/-- R91: only PUT takes a payload. -/
theorem decode_of_stray_payload {f : Frame} (legal : ¬ IllegalWord f.cw)
    (notPut : opField f.cw ≠ 0x2#4) (payload : f.payload ≠ []) : decode f = .error .badFrame := by
  rw [illegalWord_iff, not_or, not_or] at legal
  obtain ⟨rsv, range, count⟩ := legal
  rw [decode, if_neg rsv, if_neg range, if_neg count, if_neg notPut, if_pos payload]

/-- Settles O11: the fields of the command word are what the encoder put there, and a well-formed
command's count and source survive. -/
theorem decodeOfEncode : Obligations.DecodeOfEncode := by
  intro i wf
  cases i with
  | init => rfl
  | put src wc =>
    obtain ⟨hsrc, hwc⟩ := Bool.and_eq_true_iff.mp wf
    rw [encode, decode_put_frame, srcOf_getD hsrc, toInt_ofInt_of_wcExpressible hwc]
  | get wc => rw [encode, decode_get_frame, toInt_ofInt_of_wcExpressible wf]
  | occ => rfl
  | deinit => rfl

/-- The five rows are all: a legal word, with a payload only on a PUT, is some command's frame. -/
theorem exists_encode_eq {f : Frame} (legal : ¬ IllegalWord f.cw)
    (payload : opField f.cw = 0x2#4 ∨ f.payload = []) : ∃ i : Instr, i.wf = true ∧ encode i = f := by
  obtain ⟨cw, ws⟩ := f
  rw [illegalWord_iff, not_or, not_or, not_ne_iff] at legal
  obtain ⟨rsv, range, count⟩ := legal
  have word := commandWord_fields rsv
  have row : opField cw = 0x2#4 ∨ opField cw = 0x3#4 ∨
      opField cw = 0x1#4 ∨ opField cw = 0x4#4 ∨ opField cw = 0x5#4 := by bv_omega
  rcases row with op | op | row
  · refine ⟨.put (srcOf ws) (wcOf cw), ?_, ?_⟩
    · exact Bool.and_eq_true_iff.mpr ⟨srcExpressible_srcOf ws, wcExpressible_wcOf cw⟩
    · rw [encode, getD_srcOf, wcOf, BitVec.ofInt_toInt, ← op, word]
  · obtain rfl : ws = [] := payload.resolve_left (by simp [op])
    refine ⟨.get (wcOf cw), wcExpressible_wcOf cw, ?_⟩
    rw [encode, wcOf, BitVec.ofInt_toInt, ← op, word]
  · have noCount : wcField cw = 0#24 := by_contra fun h => count ⟨row, h⟩
    have notPut : opField cw ≠ 0x2#4 := by rcases row with op | op | op <;> simp [op]
    obtain rfl : ws = [] := payload.resolve_left notPut
    rw [noCount] at word
    rcases row with op | op | op <;> rw [op] at word
    · exact ⟨.init, rfl, by rw [encode, word]⟩
    · exact ⟨.occ, rfl, by rw [encode, word]⟩
    · exact ⟨.deinit, rfl, by rw [encode, word]⟩

/-- R91 rejects nothing else. -/
theorem exists_decode_eq {f : Frame} (legal : ¬ IllegalWord f.cw)
    (payload : opField f.cw = 0x2#4 ∨ f.payload = []) : ∃ i : Instr, decode f = .ok i := by
  obtain ⟨i, wf, rfl⟩ := exists_encode_eq legal payload
  exact ⟨i, decodeOfEncode i wf⟩

/-- Settles O12: the frame is not rejected, so it is some well-formed command's frame, and that command
is the one it decodes to. -/
theorem encodeOfDecode : Obligations.EncodeOfDecode := by
  intro f i h
  have legal : ¬ IllegalWord f.cw := fun illegal => by
    rw [decode_of_illegalWord illegal] at h
    cases h
  have payload : opField f.cw = 0x2#4 ∨ f.payload = [] := by
    by_contra stray
    obtain ⟨notPut, payload⟩ := not_or.mp stray
    rw [decode_of_stray_payload legal notPut payload] at h
    cases h
  obtain ⟨j, wf, rfl⟩ := exists_encode_eq legal payload
  rw [decodeOfEncode j wf] at h
  cases h
  exact ⟨wf, rfl⟩

/-- Settles O14: a frame has an illegal word, or a stray payload behind a legal one, or it is some
command's. -/
theorem decoderRejectsReservedFrames : Obligations.DecoderRejectsReservedFrames := by
  intro f
  rw [ne_eq, ← opField_eq_two_iff]
  by_cases illegal : IllegalWord f.cw
  · simp [decode_of_illegalWord illegal, illegal]
  · by_cases payload : opField f.cw = 0x2#4 ∨ f.payload = []
    · obtain ⟨i, h⟩ := exists_decode_eq illegal payload
      simpa [h, illegal, ← or_iff_not_imp_left] using payload
    · obtain ⟨notPut, stray⟩ := not_or.mp payload
      simp [decode_of_stray_payload illegal notPut stray, illegal, notPut, stray]

/-! ## The rows of the opcode table -/

theorem opField_rowMask (cw : Word) : opField (cw &&& 0xFF000000#32) = opField cw := by
  rw [opField, opField, BitVec.extractLsb'_and]
  exact BitVec.and_allOnes

theorem rsvField_rowMask (cw : Word) : rsvField (cw &&& 0xFF000000#32) = rsvField cw := by
  rw [rsvField, rsvField, BitVec.extractLsb'_and]
  exact BitVec.and_allOnes

/-- The mask of PUT and GET fixes the opcode and the reserved bits. -/
theorem eq_commandWord_of_rowMask {cw : Word} {op : BitVec 4}
    (h : cw &&& 0xFF000000#32 = commandWord op 0#24) : cw = commandWord op (wcField cw) := by
  have opcode : opField cw = op := by rw [← opField_rowMask, h, opField_commandWord]
  have reserved : rsvField cw = 0#4 := by rw [← rsvField_rowMask, h, rsvField_commandWord]
  rw [← opcode, commandWord_fields reserved]

/-- The mask of the other commands fixes the whole word. -/
theorem eq_of_fullMask {cw w : Word} (h : cw &&& 0xFFFFFFFF#32 = w) : cw = w :=
  BitVec.and_allOnes.symm.trans h

/-- Two rows are disjoint when their matches differ under the bits that both masks look at. -/
theorem rows_disjoint {a m b n : Word} (h : a &&& n ≠ b &&& m) (cw : Word) :
    ¬ (cw &&& m = a ∧ cw &&& n = b) := by
  rintro ⟨rfl, rfl⟩
  exact h (by rw [BitVec.and_assoc, BitVec.and_comm m, BitVec.and_assoc])

/-- Settles O13: a masked word gives back the fields that select the row, and a legal word is a
command's, so it fits that command's row. -/
theorem commandWordSelectsItsRow : Obligations.CommandWordSelectsItsRow := by
  refine ⟨fun _ h => eq_of_fullMask h ▸ rfl, fun cw ws h => ?_, fun cw h => ?_,
    fun _ h => eq_of_fullMask h ▸ rfl, fun _ h => eq_of_fullMask h ▸ rfl, ?_, ?_⟩
  · rw [← srcOf_eq, signedCount_eq, eq_commandWord_of_rowMask (op := 0x2#4) h, decode_put_frame,
      wcOf_commandWord]
  · rw [signedCount_eq, eq_commandWord_of_rowMask (op := 0x3#4) h, decode_get_frame,
      wcOf_commandWord]
  · exact List.Pairwise.imp (R := fun a b : Word × Word => a.1 &&& b.2 ≠ b.1 &&& a.2)
      rows_disjoint (by decide)
  · intro cw ws init put get occ deinit
    apply decode_of_illegalWord
    by_contra legal
    obtain ⟨i, -, frame⟩ := exists_encode_eq (f := ⟨cw, []⟩) legal (.inr rfl)
    obtain rfl : (encode i).cw = cw := congrArg Frame.cw frame
    cases i with
    | init => exact init Laws.OpcodeRow.init
    | put src wc => exact put (Laws.OpcodeRow.put src wc)
    | get wc => exact get (Laws.OpcodeRow.get wc)
    | occ => exact occ Laws.OpcodeRow.occ
    | deinit => exact deinit Laws.OpcodeRow.deinit

/-- Settles O16: the opcode and the count stand in the command word without overlap. -/
theorem frameOfEachCommand : Obligations.FrameOfEachCommand := by
  have cw (op : BitVec 4) (wc : Int) : (commandWord op (BitVec.ofInt 24 wc)).toNat =
      op.toNat * 268435456 + (wc % 16777216).toNat := by
    rw [commandWord_toNat, BitVec.toNat_ofInt]
    rfl
  exact ⟨rfl, rfl, rfl, fun wc => ⟨cw 0x3#4 wc, rfl⟩, fun ws wc => ⟨cw 0x2#4 wc, rfl⟩, fun _ => rfl⟩

/-- Settles O15, by running the decoder on the seven frames. -/
theorem writtenOutFramesDecode : Obligations.WrittenOutFramesDecode := by
  unfold Obligations.WrittenOutFramesDecode
  decide

/-! ## Responses, counts out of range, and the frame placed next -/

/-- Settles O19: the code stands in the low byte, under `0xF` in the top four bits. -/
theorem responseWordLayout : Obligations.ResponseWordLayout := by
  refine ⟨fun _ => rfl, rfl, fun c => ⟨_, rfl, ?_⟩⟩
  rw [BitVec.toNat_append, ← Nat.shiftLeft_add_eq_or_of_lt c.isLt]
  rfl

/-- Settles O40: both commands ask first whether a frame can carry the count. -/
theorem countsNoFrameCarriesAreRefused : Obligations.CountsNoFrameCarriesAreRefused := by
  intro s src wc h
  have refused : ¬ wcExpressible wc = true := by
    rw [wcExpressible_iff]
    omega
  exact ⟨if_neg refused, if_neg refused⟩

/-- Settles O43: the frame stands on the port of requester 0, whose turn the schedule names. -/
theorem fetchedWordRunsNext : Obligations.FetchedWordRunsNext := by
  intro s nbits w i h
  have decoded : decode (tableFrame nbits w) = .ok i := by
    unfold decodeTableWord at h
    split at h <;> cases h
    assumption
  have next : (s.withFetchWord nbits w).nextTurn = some 0 :=
    everyRequesterCanBeNext (s.withFetchWord nbits w) 0 _ rfl (.inl rfl) s.schedule
  have noReset : (s.withFetchWord nbits w).noResetNext := fun e => by cases e
  exact (stepRunsDecodedInstruction _ 0 _ _ noReset next rfl rfl).1 i decoded

end Sys2Proof.Machine

/-! # The statements of 40_lifecycle.md: INIT and DEINIT -/

namespace Sys2Proof.Machine

theorem exec_init_of_not_ready {s : State} (nf : s.fault = false) (nr : s.ready = false) :
    exec .init s = .next (s.doInit.answer (.ok [])) := by
  simp [exec, execInit, unlessFaulted_of_not_fault s _ nf, s.ensureReady_of_not_ready nr, respond]

/-- Settles O21: the four assignments of `do_init` are made on an Uninitialized block only. -/
theorem initZeroesOnFirstUseOnly : Obligations.InitZeroesOnFirstUseOnly :=
  fun _ nf => ⟨exec_init_of_not_ready nf, exec_init_of_ready nf⟩

/-- Settles O22: DEINIT does not look at `ready`. -/
theorem deinitChangesNothing : Obligations.DeinitChangesNothing :=
  fun _ nf => exec_deinit_of_not_fault nf

end Sys2Proof.Machine

/-! # The statements of 41_put.md: PUT's preconditions, what it appends and evicts, oversize payloads -/

namespace Sys2Proof.Machine

/-! ## The checks of PUT and its end state -/

section
variable {s : State} {ws : List Word}

/-- PUT behind the common prologue, for a count that a frame can carry: R121's checks in their order,
then the implicit init and the copy. -/
theorem exec_put_of_not_fault {src : Option (List Word)} {wc : Int} (nf : s.fault = false)
    (hwc : wcExpressible wc = true) :
    exec (.put src wc) s =
      if wc ≤ 0 then .next (s.raised .badCount)
      else src.elim (.next (s.raised .nullBuf)) fun ws =>
        if (ws.length : Int) ≠ wc then .next (s.raised .badFrame)
        else putWords s.ensureReady ws := by
  simp only [exec, execPut, if_pos hwc, unlessFaulted_of_not_fault s _ nf]
  cases src <;> rfl

/-- A PUT whose frame is as long as its count says, from a write pointer inside the ring. -/
theorem exec_put_written (nf : s.fault = false) (ne : ws ≠ []) (le : ws.length ≤ 8388607)
    (in_lt : s.ensureReady.inIndex.toNat < s.params.capacity) :
    ∃ m, copyIn s.params.capacity s.storage s.ensureReady.inIndex.toNat
        (serialize s.params.byteOrder ws) =
          some (m, ringOffset s.params.capacity s.ensureReady.inIndex.toNat (ws.length * 4)) ∧
      exec (.put (some ws) ws.length) s = .next (s.ensureReady.put ws m
        (ringOffset s.params.capacity s.ensureReady.inIndex.toNat (ws.length * 4))) := by
  have pos := List.length_pos_iff.mpr ne
  have hwc : wcExpressible (ws.length : Int) = true := (wcExpressible_iff _).mpr (by omega)
  obtain ⟨m, copy, put⟩ := putWords_eq s.ensureReady ws (by simpa using in_lt)
  simp only [State.ensureReady_params, State.ensureReady_storage] at copy put
  refine ⟨m, copy, ?_⟩
  rw [exec_put_of_not_fault nf hwc, if_neg (by omega), Option.elim_some, if_neg (not_not.mpr rfl),
    put, State.put, State.ensureReady_params]

end

theorem putCount_eq_min (n c b : Nat) : putCount n c b = min (c + b) n := by
  rw [putCount_eq, evicted]
  omega

theorem putOut_eq_ite (n c o b : Nat) :
    putOut n c o b = if n < c + b then (o + (c + b - n)) % n else o := by
  simp only [putOut, overflows, evicted, decide_eq_true_eq]

/-- PUT with its implicit init writes `ready`, storage, the three registers and the answer. -/
theorem ensureReady_put_eq (s : State) (ws : List Word) (m : Memory) (ii : Nat) :
    s.ensureReady.put ws m ii = { s with
      ready := true, storage := m,
      count := BitVec.ofNat 32
        (putCount s.params.capacity s.ensureReady.count.toNat (ws.length * 4)),
      inIndex := BitVec.ofNat 32 ii,
      outIndex := BitVec.ofNat 32 (putOut s.params.capacity s.ensureReady.count.toNat
        s.ensureReady.outIndex.toNat (ws.length * 4)),
      response := some (.ok []) } := by
  cases hr : s.ready with
  | true =>
    rw [s.ensureReady_of_ready hr, ← hr]
    rfl
  | false =>
    rw [s.ensureReady_of_not_ready hr]
    rfl

/-- Settles O24: the checks stand in R121's order, and each raises its own cause. -/
theorem putPreconditionsRaise : Obligations.PutPreconditionsRaise := by
  intro s src wc nf lower upper
  have hwc : wcExpressible wc = true := (wcExpressible_iff wc).mpr ⟨lower, upper⟩
  rw [exec_put_of_not_fault nf hwc]
  refine ⟨fun le => ?_, fun pos null => ?_, fun ws pos source wrong => ?_⟩
  · rw [if_pos le]
    rfl
  · rw [if_neg (Int.not_le.mpr pos), null]
    rfl
  · rw [if_neg (Int.not_le.mpr pos), source, Option.elim_some, if_pos wrong]
    rfl

/-- Settles O25: the copy loop writes byte `j` of the payload `j` places from the write pointer, and the
registers are those of an Uninitialized block after `do_init`, or of a Ready one as it stands. -/
theorem putAppendsAndEvicts : Obligations.PutAppendsAndEvicts := by
  intro s ws nf ne le hin n b c i o
  have hc : s.ensureReady.count.toNat = c := by
    rw [State.ensureReady_count]
    exact apply_ite BitVec.toNat _ _ _
  have hi : s.ensureReady.inIndex.toNat = i := by
    rw [State.ensureReady_inIndex]
    exact apply_ite BitVec.toNat _ _ _
  have ho : s.ensureReady.outIndex.toNat = o := by
    rw [State.ensureReady_outIndex]
    exact apply_ite BitVec.toNat _ _ _
  have in_lt : i < n := by
    cases hr : s.ready with
    | true => simpa [i, hr] using hin hr
    | false => simpa [i, hr] using s.params.capacity_pos
  obtain ⟨m, copy, put⟩ := exec_put_written nf ne le (hi ▸ in_lt)
  rw [hi] at copy put
  have read := copyIn_read n s.storage m i _ _ copy in_lt
  rw [serialize_length] at read
  refine ⟨m, ?_, fun j hj last => (read _).2 j hj last rfl, fun a => (read a).1⟩
  rw [put, ensureReady_put_eq, hc, ho, putCount_eq_min, putOut_eq_ite]
  rfl

/-- At least `n` new bytes leave nothing of the old ones among the last `n`. -/
theorem takeLast_append_of_length_le (n : Nat) (old new : List Byte) (h : n ≤ new.length) :
    takeLast n (old ++ new) = new.drop (new.length - n) := by
  rw [takeLast, List.length_append, Nat.add_sub_assoc h, List.drop_length_add_append]

/-- Settles O26: the ring is full, so its pointers are equal, and the last `N` bytes of the old window
followed by the payload are all of the payload. -/
theorem oversizePutKeepsTheLastBytes : Obligations.OversizePutKeepsTheLastBytes := by
  intro s ws hs nf le oversize
  have ready := s.ensureReady_ready
  have params := s.ensureReady_params
  have ring := hs.ensureReady.ring ready
  have ne : ws ≠ [] := List.ne_nil_of_length_pos (by omega)
  obtain ⟨m, copy, put⟩ := exec_put_written nf ne le (params ▸ ring.in_lt)
  rw [← params, ← s.ensureReady_storage] at copy
  rw [← params] at put
  obtain ⟨count, -, -⟩ := ring.put_registers copy
  have full := count.trans (show _ = s.ensureReady.params.capacity by rw [evicted, params]; omega)
  refine ⟨_, put, full.trans (by rw [params]), ?_, rfl, ?_⟩
  · exact ((equalPointersMeanEmptyOrFull _ (hs.ensureReady.put ready copy) ready).mpr
      (.inr (beq_iff_eq.mpr full))).symm
  · rw [hs.ensureReady.put_window ready copy, params,
      takeLast_append_of_length_le _ _ _ (by rw [serialize_length]; omega), serialize_length]

end Sys2Proof.Machine

/-! # The statements of 42_get.md: GET's checks in their order, the words it returns, and its frame -/

namespace Sys2Proof.Machine

/-! ## The checks of GET and its end state -/

/-- GET behind the common prologue, for a count that a frame can carry: the checks of R136 to R138 in
their order, then the copy. -/
theorem exec_get_of_not_fault {s : State} {wc : Int} (nf : s.fault = false)
    (hwc : wcExpressible wc = true) :
    exec (.get wc) s =
      if wc ≤ 0 then .next (s.raised .badCount)
      else if s.ready then
        if s.count.toNat < byteCount wc then .next (s.answer .errNoData)
        else getWords s (byteCount wc)
      else .next (s.raised .uninit) := by
  simp only [exec, execGet, if_pos hwc, unlessFaulted_of_not_fault s _ nf, raiseFatal, respond]

/-- A GET of `k` resident words, from a read pointer inside the ring: it copies out the oldest bytes of
the window, and the pointer goes as many places on. -/
theorem exec_get_oldest {s : State} {k : Nat} (nf : s.fault = false) (hr : s.ready = true)
    (pos : 0 < k) (le : k ≤ 8388607) (out_lt : s.outIndex.toNat < s.params.capacity)
    (enough : 4 * k ≤ s.count.toNat) :
    exec (.get k) s = .next (s.got (s.window.take (4 * k)) (4 * k)
      (ringOffset s.params.capacity s.outIndex.toNat (4 * k))) := by
  have hb : byteCount (k : Int) = 4 * k := Nat.mul_comm k 4
  have copy := copyOut_eq s s.outIndex.toNat (4 * k) out_lt
  rw [← window_take s enough, ← hb] at copy
  rw [← hb] at enough ⊢
  exact exec_get_got nf hr (by omega) (by omega) enough copy

/-- Settles O28: BAD_COUNT is checked before UNINIT, and each raises its own cause. -/
theorem getPreconditionsRaise : Obligations.GetPreconditionsRaise := by
  intro s wc nf lower upper
  rw [exec_get_of_not_fault nf ((wcExpressible_iff wc).mpr ⟨lower, upper⟩)]
  refine ⟨fun le => ?_, fun pos nr => ?_⟩
  · rw [if_pos le]
    rfl
  · rw [if_neg (Int.not_le.mpr pos), if_neg (by simp [nr])]
    rfl

/-- Settles O29: the count is compared with the bytes asked for before any byte is copied. -/
theorem getWithoutDataChangesNothing : Obligations.GetWithoutDataChangesNothing := by
  intro s wc nf hr pos le short
  have hwc : wcExpressible wc = true := (wcExpressible_iff wc).mpr (by omega)
  exact exec_get_noData hwc nf hr (by unfold byteCount; omega)

/-- Settles O30: GET's copy loop reads the first `4k` bytes of the window, and its commit writes the two
registers and nothing in storage. -/
theorem getReturnsTheOldestWords : Obligations.GetReturnsTheOldestWords :=
  fun s _ nf hr pos le out_lt enough =>
    ⟨s.epoch + 1, exec_get_oldest nf hr pos le out_lt enough⟩

/-! ## Words through an empty ring -/

/-- A PUT that fits into an empty queue leaves exactly its bytes there. -/
theorem queueStep_put_of_empty {p : Params} {ws : List Word} (wc : Int)
    (fits : ws.length * 4 ≤ p.capacity) :
    queueStep p (.put (some ws) wc) [] = (serialize p.byteOrder ws, .ok []) := by
  have keep : (serialize p.byteOrder ws).length - p.capacity = 0 := by
    rw [serialize_length]
    omega
  rw [queueStep, Option.getD_some, List.nil_append, takeLast, keep, List.drop_zero]

/-- A GET of as many words as are resident empties the queue and returns them. -/
theorem queueStep_get_serialize (p : Params) (ws : List Word) :
    queueStep p (.get ws.length) (serialize p.byteOrder ws) = ([], .ok ws) := by
  have all : byteCount ws.length = (serialize p.byteOrder ws).length := by
    rw [byteCount_length, serialize_length]
  rw [queueStep, all, if_neg (lt_irrefl _), List.drop_length, List.take_length, wordsOf_serialize]

/-- A PUT that fits into an empty block leaves it Ready, the payload's bytes its queue. -/
theorem State.BlockInv.exec_put_into_empty {s : State} (h : s.BlockInv) (nf : s.fault = false)
    (empty : s.queue = []) {ws : List Word} (ne : ws ≠ []) (le : ws.length ≤ 8388607)
    (fits : ws.length * 4 ≤ s.params.capacity) :
    ∃ t, exec (.put (some ws) ws.length) s = .next t ∧ t.BlockInv ∧ t.fault = false ∧
      t.ready = true ∧ t.params = s.params ∧ t.queue = serialize s.params.byteOrder ws := by
  have ready := s.ensureReady_ready
  have params := s.ensureReady_params
  obtain ⟨m, copy, put⟩ := exec_put_written nf ne le (params ▸ (h.ensureReady.ring ready).in_lt)
  rw [← params, ← s.ensureReady_storage] at copy
  rw [← params] at put
  have unfaulted : s.ensureReady.fault = false := s.ensureReady_fault.trans nf
  obtain ⟨_, -, refines⟩ := commandsRefineByteQueue _ _ _ h put unfaulted
  rw [empty, queueStep_put_of_empty _ fits] at refines
  exact ⟨_, put, h.ensureReady.put ready copy, unfaulted, ready, params,
    (Prod.mk.inj refines).1.symm⟩

/-- Settles O34: after the PUT the queue is the payload's bytes, of which the GET takes all. -/
theorem getReturnsWhatWasPut : Obligations.GetReturnsWhatWasPut := by
  intro s ws h nf empty ne le fits
  obtain ⟨t, put, ht, nft, ready, params, queue⟩ := h.exec_put_into_empty nf empty ne le fits
  have count : t.count.toNat = ws.length * 4 := by
    rw [← window_length, ← queue_of_ready t ready, queue, serialize_length]
  have get := exec_get_oldest nft ready (List.length_pos_iff.mpr ne) le (ht.ring ready).out_lt
    (by omega)
  obtain ⟨_, answer, refines⟩ := commandsRefineByteQueue _ _ _ ht get nft
  rw [queue, ← params, queueStep_get_serialize] at refines
  obtain ⟨emptied, rfl⟩ := Prod.mk.inj refines
  exact ⟨t, _, put, get, answer, emptied.symm⟩

end Sys2Proof.Machine

/-! # The statement of 43_occupancy.md: OCC -/

namespace Sys2Proof.Machine

theorem exec_occ_of_not_ready {s : State} (nf : s.fault = false) (nr : s.ready = false) :
    exec .occ s = .next (s.raised .uninit) := by
  simp [exec, execOcc, unlessFaulted_of_not_fault s _ nf, nr, raiseFatal]

/-- Settles O23: a block that is not faulted is asked only whether it is Ready. -/
theorem occAnswersTheCount : Obligations.OccAnswersTheCount :=
  fun _ nf => ⟨exec_occ_of_ready nf, exec_occ_of_not_ready nf⟩

end Sys2Proof.Machine

/-! # The statements of 44_event_encoder.md: the records, and the pseudo-operations of one requester -/

namespace Sys2Proof.Machine

/-! ## Words as records and as digits -/

/-- Settles O52: the two halves of the record do not overlap. -/
theorem timestampRecordFields : Obligations.TimestampRecordFields := by
  intro p nowMs
  have low : (nowMs &&& 0x0000FFFF#32).toNat = nowMs.toNat % 65536 := by
    rw [BitVec.toNat_and]
    exact Nat.and_two_pow_sub_one_eq_mod nowMs.toNat 16
  have high : (magicWord p).toNat = p.magicHigh.toNat <<< 16 := by
    rw [magicWord, BitVec.toNat_append]
    exact Nat.or_zero _
  rw [timestampWord, BitVec.toNat_or, low, high, Nat.or_comm,
    ← Nat.shiftLeft_add_eq_or_of_lt (Nat.mod_lt _ (by decide)), Nat.shiftLeft_eq]

/-- `hex8` by places: the one in place `k` shows nibble `7 - k`. -/
theorem hex8_eq_map (w : Word) :
    hex8 w = (List.range 8).map (fun k => Nat.digitChar (w.toNat / 16 ^ (7 - k) % 16)) := by
  simp [hex8, List.range_succ_eq_map, Nat.shiftRight_eq_div_pow]

theorem lowercaseDigits_getElem? (d : Nat) (h : d < 16) :
    "0123456789abcdef".toList[d]? = some (Nat.digitChar d) := by
  revert d
  decide

/-- Settles O53: each of the eight places shows a number below 16, whose digit is in the alphabet. -/
theorem hexDigitsOfAWord : Obligations.HexDigitsOfAWord := by
  intro w
  rw [hex8_eq_map]
  refine ⟨by simp, fun k hk => ?_⟩
  rw [lowercaseDigits_getElem? _ (Nat.mod_lt _ (by decide)), List.getElem?_map,
    List.getElem?_range hk, Option.map_some]

/-- Four bytes or more begin with a word. -/
theorem wordsOf_of_four_le (o : ByteOrder) (bs : List Byte) (h : 4 ≤ bs.length) :
    ∃ w, wordsOf o (bs.take 4) = [w] ∧ wordsOf o bs = w :: wordsOf o (bs.drop 4) := by
  match bs with
  | [] | [_] | [_, _] | [_, _, _] => simp at h
  | b0 :: b1 :: b2 :: b3 :: rest => exact ⟨wordOf o b0 b1 b2 b3, rfl, rfl⟩

/-- Evicting before more is appended, or once at the end, leaves the same bytes. -/
theorem takeLast_takeLast_append (n : Nat) (bs cs : List Byte) :
    takeLast n (takeLast n bs ++ cs) = takeLast n (bs ++ cs) := by
  have inside : bs.length - n ≤ bs.length := Nat.sub_le _ _
  rw [takeLast, takeLast, ← List.drop_append_of_le_length inside, takeLast, List.drop_drop,
    List.length_drop, List.length_append]
  congr 1
  omega

/-! ## What a command leaves to the environment, and the queue of a state -/

/-- A command uses up no event and no reading of the time source. -/
theorem ExecResult.environment_eq {s t : State} {i : Instr} (h : ExecResult s t i) :
    t.schedule = s.schedule ∧ t.times = s.times := by
  cases h with
  | answered i a h => simp [h]
  | raised i c nf h => simp [h]
  | initialised nf nr h => simp [h]
  | written ws m ii nf ne le copy h => simp [h, State.put]
  | read wc bytes oi nf r pos le enough copy h => simp [h, State.got]

/-- The queue depends on the block and on the draw of the stale bytes. -/
theorem SameBlock.queue_eq {s t : State} (h : SameBlock s t) (epoch : t.epoch = s.epoch) :
    t.queue = s.queue := by
  have bytes : t.byteAt = s.byteAt := by
    funext a
    rw [State.byteAt, State.byteAt, State.resident, State.resident, State.staleAt, State.staleAt,
      h.params, h.storage, h.count, h.outIndex, h.ready, epoch]
  rw [State.queue, State.queue, State.window, State.window, h.params, h.count, h.outIndex, h.ready,
    bytes]

@[simp] theorem queue_deliver (k : Nat) (s : State) : (deliver k s).queue = s.queue :=
  (sameBlock_deliver k s).queue_eq (deliver_epoch k s)

theorem queue_length (s : State) (h : s.ready = true) : s.queue.length = s.count.toNat := by
  rw [queue_of_ready s h, window_length]

theorem runSteps_succ {s t : State} (h : step s = .next t) (n : Nat) :
    runSteps (n + 1) s = runSteps n t := by
  simp [runSteps, h]

theorem runSteps_add {m : Nat} {s t : State} (h : runSteps m s = .next t) (n : Nat) :
    runSteps (m + n) s = runSteps n t := by
  induction m generalizing s with
  | zero =>
    injection h with h
    rw [Nat.zero_add, h]
  | succ m ih =>
    rw [Nat.add_right_comm]
    cases first : step s with
    | next u =>
      rw [runSteps_succ first] at h ⊢
      exact ih h
    | fault c => simp [runSteps, first] at h
    | refused c => simp [runSteps, first] at h

theorem turnTaken_schedule (s : State) : s.turnTaken.schedule = s.schedule.tail := by
  unfold State.turnTaken
  cases s.schedule <;> rfl

/-! ## Issuing the next command -/

/-- The requester `r` in place `k` can issue a command: that of task `tk`, by which it becomes `q`, the
command on its port. -/
structure Issues (k : Nat) (r : Requester) (s : State) (q : Requester) (tk : Task) : Prop where
  free : r.port = none
  active : r.active = true
  requesters : (issue k r s.turnTaken).requesters = s.requesters.set k (q.issuing tk)

section
variable {k : Nat} {r : Requester}

/-- A task in progress goes on. -/
theorem Issues.of_task {tk : Task} (s : State) (free : r.port = none) (task : r.task = some tk) :
    Issues k r s r tk where
  free := free
  active := by simp [Requester.active, task]
  requesters := by simp [issue, task]

/-- A requester without a task starts its next job. -/
theorem Issues.of_job {j : Job} {jobs : List Job} (s : State) (free : r.port = none)
    (task : r.task = none) (work : r.work = j :: jobs) :
    Issues k r s { r with work := jobs } (jobTask s.turnTaken j) where
  free := free
  active := by simp [Requester.active, work]
  requesters := by simp [issue, task, work]

theorem issue_times_of_task {tk : Task} (s : State) (task : r.task = some tk) :
    (issue k r s.turnTaken).times = s.times := by
  simp [issue, task]

theorem issue_times_of_job {j : Job} {jobs : List Job} (s : State) (task : r.task = none)
    (work : r.work = j :: jobs) :
    (issue k r s.turnTaken).times = (jobStarted s.turnTaken j).times := by
  simp [issue, task, work]

end

/-- One reading of the time source is the environment's next one, which is used up, or the free value of
the draws so far. -/
theorem timeRead_cases (s : State) :
    (∀ w ts, s.times = w :: ts → s.turnTaken.nextTime = w ∧ s.turnTaken.timeRead.times = ts) ∧
    (s.times = [] → s.turnTaken.nextTime = Config.nowMs s.turnTaken.draws ∧
      s.turnTaken.timeRead.times = []) := by
  constructor
  · intro w ts h
    simp [State.nextTime, State.timeRead, h]
  · intro h
    simp [State.nextTime, State.timeRead, h]

/-- The frame of a PUT of one word (R95), its command word written out. -/
theorem putFrame_singleton (w : Word) : putFrame [w] = ⟨0x20000001#32, [w]⟩ :=
  congrArg (Frame.mk · [w])
    (by decide : commandWord 0x2#4 (BitVec.ofInt 24 1) = 0x20000001#32)

/-- Settles O54: the job's first task is that of RECORD_EVENT at the time just read. -/
theorem trackingIssuesTheTimestamp : Obligations.TrackingIssuesTheTimestamp := by
  intro s k r status jobs nr next hr free task work
  have issues := Issues.of_job (k := k) s free task work
  obtain ⟨reading, noReading⟩ := timeRead_cases s
  refine ⟨_, { r with work := jobs }.issuing (jobTask s.turnTaken (.tracking status)),
    s.turnTaken.nextTime, step_of_free_port nr next hr free, ?_, rfl, ?_, ?_, ?_, ?_⟩
  · rw [issues.requesters]
    exact List.getElem?_set_self (List.getElem?_eq_some_iff.mp hr).1
  · simp only [Requester.issuing, jobTask, taskFrame, putFrame_singleton, State.turnTaken_params]
  · simp only [Requester.issuing, jobTask, State.turnTaken_params]
  · rw [issue_times_of_job s task work]
    exact reading
  · rw [issue_times_of_job s task work]
    exact noReading

/-! ## One requester alone: a command and its answer -/

/-- The requesters of `s` are those of `s₀` but for `r` in place `k`, which alone can be active, and no
hardware reset is to come. -/
structure Solo (s₀ : State) (k : Nat) (r : Requester) (s : State) : Prop where
  requesters : s.requesters = s₀.requesters.set k r
  place : k < s₀.requesters.length
  only : s₀.OnlyActive k
  events : ∀ e ∈ s.schedule, e ≠ .reset

/-- The state in which the command that requester `k` issues is executed. -/
def State.asked (s : State) (k : Nat) (r : Requester) : State := (issue k r s.turnTaken).turnTaken

theorem sameBlock_asked (s : State) (k : Nat) (r : Requester) : SameBlock s (s.asked k r) :=
  ((sameBlock_turnTaken s).trans (sameBlock_issue k r _)).trans (sameBlock_turnTaken _)

@[simp] theorem asked_queue (s : State) (k : Nat) (r : Requester) :
    (s.asked k r).queue = s.queue :=
  (sameBlock_asked s k r).queue_eq (by simp [State.asked])

section
variable {s₀ s : State} {k : Nat} {r q : Requester} {tk : Task} {c : Instr}

theorem Solo.refl (hr : s.requesters[k]? = some r) (only : s.OnlyActive k)
    (events : ∀ e ∈ s.schedule, e ≠ .reset) : Solo s k r s := by
  obtain ⟨place, rfl⟩ := List.getElem?_eq_some_iff.mp hr
  exact ⟨by simp, place, only, events⟩

theorem Solo.getElem?_self (h : Solo s₀ k r s) : s.requesters[k]? = some r := by
  rw [h.requesters]
  exact List.getElem?_set_self h.place

theorem Solo.getElem?_ne (h : Solo s₀ k r s) :
    ∀ j, j ≠ k → s.requesters[j]? = s₀.requesters[j]? := by
  intro j hj
  rw [h.requesters]
  exact List.getElem?_set_ne hj.symm

theorem Solo.noResetNext (h : Solo s₀ k r s) : s.noResetNext :=
  fun e => h.events _ (List.mem_of_head? e) rfl

theorem Solo.nextTurn (h : Solo s₀ k r s) (active : r.active = true) : s.nextTurn = some k :=
  (h.only.congr h.getElem?_ne).nextTurn h.getElem?_self active

/-- Replacing the one requester, while events are at most used up, leaves it alone. -/
theorem Solo.set {t : State} (h : Solo s₀ k r s) (requesters : t.requesters = s.requesters.set k q)
    (schedule : t.schedule = s.schedule.tail) : Solo s₀ k q t where
  requesters := by rw [requesters, h.requesters, List.set_set]
  place := h.place
  only := h.only
  events e he := h.events e (List.mem_of_mem_tail (schedule ▸ he))

/-- The step of issuing. -/
theorem Solo.step_issue (h : Solo s₀ k r s) (issues : Issues k r s q tk) :
    step s = .next (issue k r s.turnTaken) ∧ Solo s₀ k (q.issuing tk) (issue k r s.turnTaken) :=
  ⟨step_of_free_port h.noResetNext (h.nextTurn issues.active) h.getElem?_self issues.free,
    h.set issues.requesters (by simp [turnTaken_schedule])⟩

/-- The step of executing the command on the port and delivering its answer. -/
theorem Solo.step_answer {f : Frame} {u : State} {a : Response} (h : Solo s₀ k r s)
    (port : r.port = some f) (decoded : decode f = .ok c) (executed : exec c s.turnTaken = .next u)
    (answer : u.response = some a) :
    step s = .next (deliver k u) ∧ Solo s₀ k (r.answered s.params a) (deliver k u) := by
  have result := exec_result c _ u executed
  have requesters : u.requesters = s.requesters := by simpa using result.requesters_eq
  have params : u.params = s.params := by simpa using result.params_eq
  have delivered : deliver k u = u.withRequester k (r.answered s.params a) := by
    rw [deliver_eq (requesters ▸ h.getElem?_self) answer, params]
  constructor
  · rw [step_of_port h.noResetNext (h.nextTurn (by simp [Requester.active, port])) h.getElem?_self
      port, executeFrame_of_legal decoded, executed]
    rfl
  · refine h.set (by rw [delivered, State.withRequester_requesters, requesters]) ?_
    rw [deliver_schedule, result.environment_eq.1, turnTaken_schedule]

/-- Two steps: the command is issued, and then executed and answered. -/
theorem Solo.exchange {u : State} {a : Response} (h : Solo s₀ k r s) (issues : Issues k r s q tk)
    (decoded : decode (taskFrame tk) = .ok c) (executed : exec c (s.asked k r) = .next u)
    (answer : u.response = some a) :
    runSteps 2 s = .next (deliver k u) ∧
      Solo s₀ k ((q.issuing tk).answered s.params a) (deliver k u) := by
  obtain ⟨first, issued⟩ := h.step_issue issues
  obtain ⟨second, answered⟩ := issued.step_answer rfl decoded executed answer
  refine ⟨by rw [runSteps_succ first, runSteps_succ second]; rfl, ?_⟩
  simpa using answered

/-- What an executed command that raised no Fatal has done to the block, and its answer (R37). -/
structure Served (c : Instr) (s t : State) (a : Response) : Prop where
  blockInv : t.BlockInv
  unfaulted : t.fault = false
  ready : s.ready = true → t.ready = true
  params : t.params = s.params
  queue : queueStep s.params c s.queue = (t.queue, a)

/-- An exchange for a command that raises no Fatal is R37's step of the queue. -/
theorem Solo.exchange_served {u : State} (h : Solo s₀ k r s) (issues : Issues k r s q tk)
    (hs : s.BlockInv) (decoded : decode (taskFrame tk) = .ok c)
    (executed : exec c (s.asked k r) = .next u) (unfaulted : u.fault = false) :
    ∃ t a, runSteps 2 s = .next t ∧ Solo s₀ k ((q.issuing tk).answered s.params a) t ∧
      Served c s t a ∧ t.times = (issue k r s.turnTaken).times := by
  have same := sameBlock_asked s k r
  have inv := hs.of_sameBlock same
  have result := exec_result c _ u executed
  obtain ⟨a, answer, refines⟩ := commandsRefineByteQueue c _ u inv executed unfaulted
  obtain ⟨steps, solo⟩ := h.exchange issues decoded executed answer
  refine ⟨_, a, steps, solo, ⟨?_, ?_, fun hr => ?_, ?_, ?_⟩, ?_⟩
  · exact (result.blockInv inv).of_sameBlock (sameBlock_deliver k u)
  · rw [deliver_fault, unfaulted]
  · rw [deliver_ready, result.ready (same.ready.trans hr)]
  · rw [deliver_params, result.params_eq, same.params]
  · rw [queue_deliver, ← refines, same.params, asked_queue]
  · rw [deliver_times, result.environment_eq.2, State.asked, State.turnTaken_times]

/-- The exchange for a PUT of one word. -/
theorem Solo.exchange_put {w : Word} (h : Solo s₀ k r s) (issues : Issues k r s q tk)
    (hs : s.BlockInv) (nf : s.fault = false) (frame : taskFrame tk = putFrame [w]) :
    ∃ t, runSteps 2 s = .next t ∧ Solo s₀ k ((q.issuing tk).answered s.params (.ok [])) t ∧
      t.BlockInv ∧ t.fault = false ∧ t.params = s.params ∧
      t.queue = takeLast s.params.capacity (s.queue ++ serialize s.params.byteOrder [w]) ∧
      t.times = (issue k r s.turnTaken).times := by
  have same := sameBlock_asked s k r
  have ring := (hs.of_sameBlock same).ensureReady.ring (State.ensureReady_ready _)
  have nfa : (s.asked k r).fault = false := same.fault.trans nf
  obtain ⟨m, -, executed⟩ := exec_put_written (ws := [w]) nfa (List.cons_ne_nil _ _) (by simp)
    (by simpa using ring.in_lt)
  have decoded : decode (taskFrame tk) = .ok (.put (some [w]) [w].length) :=
    frame ▸ decodeOfEncode (.put (some [w]) [w].length) rfl
  obtain ⟨t, a, steps, solo, served, times⟩ := h.exchange_served issues hs decoded executed
    ((State.ensureReady_fault _).trans nfa)
  obtain ⟨queue, rfl⟩ := Prod.mk.inj served.queue
  exact ⟨t, steps, solo, served.blockInv, served.unfaulted, served.params, queue.symm, times⟩

/-- The exchange for a GET of one resident word. -/
theorem Solo.exchange_get (h : Solo s₀ k r s) (issues : Issues k r s q tk) (hs : s.BlockInv)
    (nf : s.fault = false) (hr : s.ready = true) (enough : 4 ≤ s.count.toNat)
    (frame : taskFrame tk = encode (.get 1)) :
    ∃ t w, runSteps 2 s = .next t ∧ Solo s₀ k ((q.issuing tk).answered s.params (.ok [w])) t ∧
      t.BlockInv ∧ t.fault = false ∧ t.ready = true ∧ t.queue = s.queue.drop 4 ∧
      s.residentWords = w :: t.residentWords := by
  have same := sameBlock_asked s k r
  have ring := (hs.of_sameBlock same).ring (same.ready.trans hr)
  have nfa : (s.asked k r).fault = false := same.fault.trans nf
  have executed := exec_get_oldest (k := 1) nfa (same.ready.trans hr) (by decide) (by decide)
    ring.out_lt (by rwa [same.count])
  have decoded : decode (taskFrame tk) = .ok (.get (1 : Nat)) :=
    frame ▸ decodeOfEncode (.get 1) rfl
  obtain ⟨t, a, steps, solo, served, -⟩ := h.exchange_served issues hs decoded executed nfa
  have length := queue_length s hr
  obtain ⟨w, oldest, rest⟩ := wordsOf_of_four_le s.params.byteOrder s.queue (by omega)
  have refines := served.queue
  rw [queueStep, show byteCount (1 : Nat) = 4 from rfl, if_neg (by omega), oldest] at refines
  obtain ⟨queue, rfl⟩ := Prod.mk.inj refines
  refine ⟨t, w, steps, solo, served.blockInv, served.unfaulted, served.ready hr, queue.symm, ?_⟩
  rw [State.residentWords, State.residentWords, served.params, ← queue, rest]

/-- The exchange for an OCC of a Ready block. -/
theorem Solo.exchange_occ (h : Solo s₀ k r s) (issues : Issues k r s q tk) (nf : s.fault = false)
    (hr : s.ready = true) (frame : taskFrame tk = encode .occ) :
    ∃ t, runSteps 2 s = .next t ∧
      Solo s₀ k ((q.issuing tk).answered s.params (.ok [s.count])) t ∧
      SameBlock s t ∧ t.queue = s.queue := by
  have same := sameBlock_asked s k r
  have executed := exec_occ_of_ready (same.fault.trans nf) (same.ready.trans hr)
  rw [same.count] at executed
  have decoded : decode (taskFrame tk) = .ok .occ := frame ▸ decodeOfEncode .occ rfl
  obtain ⟨steps, solo⟩ := h.exchange issues decoded executed rfl
  exact ⟨_, steps, solo, (same.trans (sameBlock_answer _ _)).trans (sameBlock_deliver k _), by simp⟩

/-! ## The pair of records -/

/-- Both PUTs of an event, from the requester that is about to issue the first. -/
theorem Solo.event_pair {ts status : Word} (h : Solo s₀ k r s)
    (issues : Issues k r s q (.eventTime ts status)) (hs : s.BlockInv) (nf : s.fault = false) :
    ∃ t q', runSteps 4 s = .next t ∧ Solo s₀ k q' t ∧ q'.port = none ∧ q'.task = none ∧
      q'.work = q.work ∧ q'.received = q.received ++ [.ok [], .ok []] ∧
      t.queue = takeLast s.params.capacity
        (s.queue ++ serialize s.params.byteOrder [ts, status]) ∧
      t.times = (issue k r s.turnTaken).times := by
  obtain ⟨u, first, soloU, hu, nfu, params, queue, times⟩ := h.exchange_put issues hs nf rfl
  obtain ⟨t, second, soloT, -, -, -, queue', times'⟩ :=
    soloU.exchange_put (Issues.of_task u rfl rfl) hu nfu rfl
  refine ⟨t, _, (runSteps_add first 2).trans second, soloT, rfl, rfl, rfl, ?_, ?_, ?_⟩
  · exact List.append_assoc _ _ _
  · rw [queue', params, queue, takeLast_takeLast_append, List.append_assoc, ← serialize_append]
    rfl
  · rw [times', issue_times_of_task u rfl, times]

end

/-- Settles O55: an event at the time just read. -/
theorem trackingAppendsThePair : Obligations.TrackingAppendsThePair := by
  intro s k r status hs nf hr only free task work events
  have solo := Solo.refl hr only events
  obtain ⟨reading, noReading⟩ := timeRead_cases s
  obtain ⟨t, q, steps, soloT, port, task', work', received, queue, times⟩ :=
    solo.event_pair (Issues.of_job s free task work) hs nf
  rw [issue_times_of_job s task work] at times
  rw [State.turnTaken_params] at queue
  refine ⟨t, q, s.turnTaken.nextTime, steps, soloT.getElem?_self, port, task', work', received,
    queue, ?_, fun h => (noReading h).1, soloT.getElem?_ne⟩
  rw [times]
  exact reading

/-- Settles O56: the event's time is the caller's. -/
theorem recordEventAppendsThePair : Obligations.RecordEventAppendsThePair := by
  intro s k r status nowMs hs nf hr only free task work events
  obtain ⟨t, q, steps, solo, port, task', work', received, queue, -⟩ :=
    (Solo.refl hr only events).event_pair (Issues.of_job s free task work) hs nf
  rw [State.turnTaken_params] at queue
  exact ⟨t, q, steps, solo.getElem?_self, port, task', work', received, queue, solo.getElem?_ne⟩

/-! ## Drains and the count read -/

/-- Settles O59: one OCC, whose answer is shown. -/
theorem countReadShowsTheCount : Obligations.CountReadShowsTheCount := by
  intro s k r nf ready hr only free task work events
  obtain ⟨t, steps, solo, same, -⟩ :=
    (Solo.refl hr only events).exchange_occ (Issues.of_job s free task work) nf ready rfl
  refine ⟨t, _, steps, solo.getElem?_self, rfl, rfl, rfl, ?_, same.storage, same.count,
    same.inIndex, same.outIndex, same.ready.trans ready, same.fault.trans nf, solo.getElem?_ne⟩
  rfl

/-- A drain with `n` words to go, all of them resident: `n` GETs, whose words are shown after the text so
far. -/
theorem Solo.drain {s₀ : State} {k n drained : Nat} {results : List ClientResult}
    {asFrame : Bool} {s : State} {r : Requester} {text : List Char} (h : Solo s₀ k r s)
    (hs : s.BlockInv) (nf : s.fault = false) (hr : s.ready = true) (enough : 4 * n ≤ s.count.toNat)
    (free : r.port = none) (task : r.task = (drainNext n text drained asFrame).1)
    (result : r.results = results ++ (drainNext n text drained asFrame).2) :
    ∃ t q, runSteps (2 * n) s = .next t ∧ Solo s₀ k q t ∧ q.port = none ∧ q.task = none ∧
      q.work = r.work ∧
      q.results = results ++
        [drainResult (text ++ (s.residentWords.take n).flatMap hex8) (drained + n) asFrame] ∧
      t.queue = s.queue.drop (4 * n) ∧ t.ready = true := by
  induction n generalizing s r text drained with
  | zero => exact ⟨s, r, rfl, h, free, task, rfl, by simpa [drainNext] using result, rfl, hr⟩
  | succ n ih =>
    obtain ⟨u, w, first, soloU, hu, nfu, ru, queue, words⟩ :=
      h.exchange_get (Issues.of_task s free task) hs nf hr (by omega) rfl
    have count : u.count.toNat = s.count.toNat - 4 := by
      rw [← queue_length u ru, queue, List.length_drop, queue_length s hr]
    have results' : r.results = results := by simpa [drainNext] using result
    obtain ⟨t, q, rest, soloT, port, task', work, shown, queue', rt⟩ :=
      ih (drained := drained + 1) (text := text ++ hex8 w) soloU hu nfu ru (by omega) rfl rfl
        (congrArg (· ++ _) results')
    refine ⟨t, q, ?_, soloT, port, task', work, ?_, ?_, rt⟩
    · rw [Nat.mul_succ, Nat.add_comm, runSteps_add first, rest]
    · rw [shown, words, List.take_succ_cons, List.flatMap_cons, List.append_assoc,
        Nat.add_right_comm, Nat.add_assoc]
    · rw [queue', queue, List.drop_drop, Nat.mul_succ, Nat.add_comm]

/-- A whole drain: the OCC that says how many words there are, and that many GETs. -/
theorem Solo.drain_report {s₀ s : State} {k : Nat} {r q : Requester} {maxWords : Int}
    {asFrame : Bool} (h : Solo s₀ k r s) (issues : Issues k r s q (.drainCount maxWords asFrame))
    (hs : s.BlockInv) (nf : s.fault = false) (hr : s.ready = true) :
    let n := drainSize maxWords s.count
    ∃ t q', runSteps (2 + 2 * n) s = .next t ∧ Solo s₀ k q' t ∧ q'.port = none ∧ q'.task = none ∧
      q'.work = q.work ∧
      q'.results = q.results ++ [drainResult ((s.residentWords.take n).flatMap hex8) n asFrame] ∧
      t.queue = s.queue.drop (4 * n) ∧ t.count.toNat = s.count.toNat - 4 * n := by
  intro n
  have resident : 4 * n ≤ s.count.toNat := by
    simp only [n, drainSize]
    omega
  obtain ⟨u, first, soloU, same, queue⟩ := h.exchange_occ issues nf hr rfl
  have words : u.residentWords = s.residentWords := by
    rw [State.residentWords, same.params, queue, State.residentWords]
  obtain ⟨t, q', rest, soloT, port, task, work, shown, queue', ready⟩ :=
    soloU.drain (n := n) (hs.of_sameBlock same) (same.fault.trans nf) (same.ready.trans hr)
      (by rwa [same.count]) rfl rfl rfl
  rw [words, List.nil_append, Nat.zero_add] at shown
  rw [queue] at queue'
  refine ⟨t, q', (runSteps_add first _).trans rest, soloT, port, task, work, shown, queue', ?_⟩
  rw [← queue_length t ready, queue', List.length_drop, queue_length s hr]

/-- Settles O57: the drain of up to `maxWords` words, with the count. -/
theorem drainReportTakesWhatItReports : Obligations.DrainReportTakesWhatItReports := by
  intro s k r maxWords hs nf ready hr only free task work events n
  obtain ⟨t, q, steps, solo, port, task', work', results, queue, count⟩ :=
    (Solo.refl hr only events).drain_report (Issues.of_job s free task work) hs nf ready
  exact ⟨t, q, steps, solo.getElem?_self, port, task', work', results, queue, count,
    solo.getElem?_ne⟩

theorem drainSize_natCast (m : Nat) (v : Word) : drainSize m v = min m (v.toNat / 4) := by
  rw [drainSize, ← Nat.cast_min, Int.toNat_natCast]

/-- Settles O58: the drain of up to MAX_REPORT_WORDS words, without the count. -/
theorem frameReadDrainsUpToItsMaximum : Obligations.FrameReadDrainsUpToItsMaximum := by
  intro s k r hs nf ready hr only free task work events n
  obtain ⟨t, q, steps, solo, port, task', work', results, queue, -⟩ :=
    (Solo.refl hr only events).drain_report (Issues.of_job s free task work) hs nf ready
  rw [State.turnTaken_params, drainSize_natCast] at steps results queue
  exact ⟨t, q, steps, solo.getElem?_self, port, task', work', results, queue, solo.getElem?_ne⟩

end Sys2Proof.Machine

/-! # The statements of 60_exceptions.md: a frame's checks in order, who writes and who reads -/

namespace Sys2Proof.Machine

/-! ## The checks of a frame -/

section
variable {f : Frame} {s : State}

/-- A faulted block answers every frame with the stored cause, an illegal one too (R187). -/
theorem executeFrame_of_fault (hs : s.BlockInv) (hf : s.fault = true) :
    executeFrame f s = .next (s.answer (.fatal s.fcause)) := by
  cases hd : decode f with
  | error c => rw [executeFrame_of_illegal hd, unlessFaulted_of_fault s _ hf]
  | ok i =>
    rw [executeFrame_of_legal hd]
    obtain ⟨t, ht⟩ := exec_answers i s hs (decode_wf f i hd)
    rw [ht, exec_of_fault ht hf]

/-- A frame that the decoder rejects raises the decoder's cause. -/
theorem executeFrame_of_rejected {c : Cause} (nf : s.fault = false) (h : decode f = .error c) :
    executeFrame f s = .next (s.raised c) := by
  rw [executeFrame_of_illegal h, unlessFaulted_of_not_fault s _ nf, raiseFatal]

end

/-- The opcode as R190's checks read it. -/
@[simp] theorem commandWord_toNat_div (op : BitVec 4) (wc : BitVec 24) :
    (commandWord op wc).toNat / 268435456 = op.toNat := by
  rw [← opField_toNat, opField_commandWord]

theorem signedCount_commandWord (op : BitVec 4) {wc : Int} (h : wcExpressible wc = true) :
    signedCount (commandWord op (BitVec.ofInt 24 wc)) = wc := by
  rw [signedCount_eq, wcOf_commandWord, toInt_ofInt_of_wcExpressible h]

/-- The outcome of a command that passes all its checks. -/
def AnsweredOk (o : Host.Outcome State Fault Refusal) : Prop :=
  ∃ t data, o = .next t ∧ t.response = some (.ok data) ∧ t.fault = false

section
variable {s : State}

theorem exec_init_of_not_fault (nf : s.fault = false) :
    exec .init s = .next (s.ensureReady.answer (.ok [])) :=
  unlessFaulted_of_not_fault s _ nf

/-- The check of an OCC that stands behind the decoder's. -/
theorem exec_occ_checks (nf : s.fault = false) :
    if s.ready = false then exec .occ s = .next (s.raised .uninit)
    else AnsweredOk (exec .occ s) := by
  split_ifs with uninit
  · exact exec_occ_of_not_ready nf uninit
  · exact ⟨_, _, exec_occ_of_ready nf (Bool.eq_true_of_not_eq_false uninit), rfl, nf⟩

/-- The checks of a PUT that stand behind the decoder's. -/
theorem exec_put_checks {src : Option (List Word)} {wc : Int} (hs : s.BlockInv)
    (nf : s.fault = false) (wf : (Instr.put src wc).wf = true) :
    if wc ≤ 0 then exec (.put src wc) s = .next (s.raised .badCount)
    else if src.getD [] = [] then exec (.put src wc) s = .next (s.raised .nullBuf)
    else if ((src.getD []).length : Int) ≠ wc then exec (.put src wc) s = .next (s.raised .badFrame)
    else AnsweredOk (exec (.put src wc) s) := by
  obtain ⟨present, hwc⟩ := Bool.and_eq_true_iff.mp wf
  have body := exec_put_of_not_fault (src := src) nf hwc
  split_ifs with count null length
  · rw [body, if_pos count]
  · obtain rfl : src = none := by rw [← srcOf_getD present, null]; rfl
    rw [body, if_neg count, Option.elim_none]
  · cases src with
    | none => exact absurd rfl null
    | some ws =>
      rw [Option.getD_some] at length
      rw [body, if_neg count, Option.elim_some, if_pos length]
  · cases src with
    | none => exact absurd rfl null
    | some ws =>
      obtain rfl := not_not.mp length
      obtain ⟨-, le⟩ := (wcExpressible_iff _).mp hwc
      obtain ⟨m, -, put⟩ := exec_put_written nf null (Int.ofNat_le.mp le)
        (s.ensureReady_params ▸ (hs.ensureReady.ring s.ensureReady_ready).in_lt)
      exact ⟨_, _, put, rfl, s.ensureReady_fault.trans nf⟩

/-- The checks of a GET that stand behind the decoder's. -/
theorem exec_get_checks {wc : Int} (hs : s.BlockInv) (nf : s.fault = false)
    (hwc : wcExpressible wc = true) :
    if wc ≤ 0 then exec (.get wc) s = .next (s.raised .badCount)
    else if s.ready = false then exec (.get wc) s = .next (s.raised .uninit)
    else if (s.count.toNat : Int) < 4 * wc then exec (.get wc) s = .next (s.answer .errNoData)
    else AnsweredOk (exec (.get wc) s) := by
  have body := exec_get_of_not_fault nf hwc
  have short_iff (pos : ¬ wc ≤ 0) :
      s.count.toNat < byteCount wc ↔ (s.count.toNat : Int) < 4 * wc := by
    unfold byteCount
    omega
  split_ifs with count uninit short
  · rw [body, if_pos count]
  · rw [body, if_neg count, uninit]
    rfl
  · exact exec_get_noData hwc nf (Bool.eq_true_of_not_eq_false uninit) ((short_iff count).mpr short)
  · have ready := Bool.eq_true_of_not_eq_false uninit
    rw [body, if_neg count, if_pos ready, if_neg (mt (short_iff count).mp short),
      getWords_eq s _ (hs.ring ready).out_lt]
    exact ⟨_, _, rfl, rfl, nf⟩

end

/-- Settles O20: a fault comes first and the decoder's checks next; a frame that passes those is some
command's, and that command's own checks are the rest. -/
theorem checksInOrder : Obligations.ChecksInOrder := by
  intro f s hs
  by_cases fault : s.fault = true
  · rw [if_pos fault]
    exact executeFrame_of_fault hs fault
  have nf := Bool.eq_false_of_not_eq_true fault
  rw [if_neg fault]
  by_cases illegal : IllegalWord f.cw
  · rw [if_pos illegal]
    exact executeFrame_of_rejected nf (decode_of_illegalWord illegal)
  rw [if_neg illegal]
  by_cases stray : f.cw.toNat / 268435456 ≠ 2 ∧ f.payload ≠ []
  · rw [if_pos stray]
    obtain ⟨notPut, payload⟩ := stray
    exact executeFrame_of_rejected nf
      (decode_of_stray_payload illegal ((opField_eq_two_iff f.cw).not.mpr notPut) payload)
  rw [if_neg stray]
  obtain ⟨i, wf, rfl⟩ := exists_encode_eq illegal
    (by simpa [opField_eq_two_iff, or_iff_not_imp_left] using stray)
  rw [executeFrame_of_legal (decodeOfEncode i wf)]
  cases i with
  | init =>
    simp only [encode, commandWord_toNat_div, BitVec.reduceToNat, Nat.reduceEqDiff, or_self,
      false_and, reduceIte]
    exact ⟨_, _, exec_init_of_not_fault nf, rfl, s.ensureReady_fault.trans nf⟩
  | put src wc =>
    obtain ⟨-, hwc⟩ := Bool.and_eq_true_iff.mp wf
    simp only [encode, commandWord_toNat_div, BitVec.reduceToNat, Nat.reduceEqDiff, or_self,
      or_false, true_and, false_and, reduceIte, signedCount_commandWord _ hwc]
    exact exec_put_checks hs nf wf
  | get wc =>
    simp only [encode, commandWord_toNat_div, BitVec.reduceToNat, Nat.reduceEqDiff, or_true,
      or_false, true_and, false_and, reduceIte, signedCount_commandWord _ wf]
    exact exec_get_checks hs nf wf
  | occ =>
    simp only [encode, commandWord_toNat_div, BitVec.reduceToNat, Nat.reduceEqDiff, or_self,
      or_true, true_and, false_and, reduceIte]
    exact exec_occ_checks nf
  | deinit =>
    simp only [encode, commandWord_toNat_div, BitVec.reduceToNat, Nat.reduceEqDiff, or_self,
      false_and, reduceIte]
    exact ⟨_, _, exec_deinit_of_not_fault nf, rfl, nf⟩

/-! ## Which frames a requester may still send -/

/-- A kind of frame, with the tasks that issue no other and the jobs that start no other task. -/
structure FrameKind where
  frame : Frame → Bool
  task : Task → Bool
  job : Job → Bool
  frame_of_task : ∀ tk, task tk = true → frame (taskFrame tk) = true
  task_of_job : ∀ s j, job j = true → task (jobTask s j) = true
  task_of_answer : ∀ p tk a next, (taskAnswered p tk a).1 = some next → task tk = true →
    task next = true

/-- A requester that has, and will have, no frame of another kind on its port. -/
def FrameKind.Confines (kind : FrameKind) (r : Requester) : Prop :=
  (∀ j ∈ r.work, kind.job j = true) ∧ (∀ tk, r.task = some tk → kind.task tk = true) ∧
    ∀ f, r.port = some f → kind.frame f = true

/-- What one step can do to a requester. -/
inductive Requester.Moves (r : Requester) : Requester → Prop
  | stays : r.Moves r
  | goesOn (tk : Task) (task : r.task = some tk) : r.Moves (r.issuing tk)
  | starts (s : State) (j : Job) (jobs : List Job) (work : r.work = j :: jobs) :
      r.Moves ({ r with work := jobs }.issuing (jobTask s j))
  | answered (p : Params) (a : Response) : r.Moves (r.answered p a)

theorem Requester.answered_task (p : Params) (r : Requester) (a : Response) :
    (r.answered p a).task = r.task.bind fun tk => (taskAnswered p tk a).1 := by
  unfold Requester.answered
  cases r.task <;> rfl

theorem FrameKind.confines_issuing {kind : FrameKind} {r : Requester} {tk : Task}
    (work : ∀ j ∈ r.work, kind.job j = true) (htk : kind.task tk = true) :
    kind.Confines (r.issuing tk) :=
  ⟨work, fun _ e => Option.some.inj e ▸ htk,
    fun _ e => Option.some.inj e ▸ kind.frame_of_task tk htk⟩

/-- Each move takes its frame and its task from what the requester had before. -/
theorem FrameKind.Confines.of_moves {kind : FrameKind} {r q : Requester} (h : kind.Confines r)
    (move : r.Moves q) : kind.Confines q := by
  obtain ⟨hwork, htask, hport⟩ := h
  cases move with
  | stays => exact ⟨hwork, htask, hport⟩
  | goesOn tk task => exact kind.confines_issuing hwork (htask tk task)
  | starts s j jobs work =>
    obtain ⟨hj, hjobs⟩ := List.forall_mem_cons.mp (work ▸ hwork)
    exact kind.confines_issuing hjobs (kind.task_of_job s j hj)
  | answered p a =>
    refine ⟨by simpa using hwork, fun next e => ?_, by simp⟩
    rw [Requester.answered_task, Option.bind_eq_some_iff] at e
    obtain ⟨tk, task, e⟩ := e
    exact kind.task_of_answer p tk a next e (htask tk task)

/-- Where one requester is replaced by its own move, each requester stays or moves. -/
theorem moves_of_set {l : List Requester} {k j : Nat} {r q' q : Requester} (hr : l[k]? = some r)
    (move : r.Moves q') (hq : (l.set k q')[j]? = some q) : ∃ r, l[j]? = some r ∧ r.Moves q := by
  by_cases e : k = j
  · subst e
    rw [List.getElem?_set_self (List.getElem?_eq_some_iff.mp hr).1] at hq
    exact ⟨r, hr, Option.some.inj hq ▸ move⟩
  · rw [List.getElem?_set_ne e] at hq
    exact ⟨q, hq, .stays⟩

/-- Issuing is a move of the requester that issues. -/
theorem issue_moves {k j : Nat} {r q : Requester} {s : State} (hr : s.requesters[k]? = some r)
    (hq : (issue k r s).requesters[j]? = some q) :
    ∃ r, s.requesters[j]? = some r ∧ r.Moves q := by
  unfold issue at hq
  cases task : r.task with
  | some tk =>
    rw [task] at hq
    exact moves_of_set hr (.goesOn tk task) hq
  | none =>
    rw [task] at hq
    cases work : r.work with
    | nil =>
      rw [work] at hq
      exact ⟨q, hq, .stays⟩
    | cons job jobs =>
      simp only [work, State.withRequester_requesters, jobStarted_requesters] at hq
      exact moves_of_set hr (.starts s job jobs work) hq

/-- Every requester after a step is one from before it, which stays or moves. -/
theorem step_moves {s t : State} (h : step s = .next t) {j : Nat} {q : Requester}
    (hq : t.requesters[j]? = some q) : ∃ r, s.requesters[j]? = some r ∧ r.Moves q := by
  rcases step_cases s t h with ⟨-, rfl⟩ | ⟨-, h⟩
  · exact ⟨q, hq, .stays⟩
  · rcases requesterMove_cases s t h with ⟨-, rfl⟩ | ⟨k, r, -, hr, -, rfl⟩ |
      ⟨k, r, f, u, -, hr, -, hu, rfl⟩
    · exact ⟨q, hq, .stays⟩
    · rw [← s.turnTaken_requesters] at hr ⊢
      exact issue_moves hr hq
    · obtain ⟨i, result⟩ := executeFrame_result f _ u hu
      obtain ⟨a, ha⟩ := result.responds
      rw [← s.turnTaken_requesters, ← result.requesters_eq] at hr ⊢
      rw [deliver_eq hr ha, State.withRequester_requesters] at hq
      exact moves_of_set hr (.answered u.params a) hq

/-- A confined requester stays confined. -/
theorem step_confines {kind : FrameKind} {s t : State} (h : step s = .next t) {j : Nat}
    {q : Requester} (hq : t.requesters[j]? = some q) :
    ∃ r, s.requesters[j]? = some r ∧ (kind.Confines r → kind.Confines q) := by
  obtain ⟨r, hr, move⟩ := step_moves h hq
  exact ⟨r, hr, fun confined => confined.of_moves move⟩

/-- Which task follows on which (R162, R164). -/
inductive Task.Follows : Task → Task → Prop
  | status (ts status : Word) : Follows (.eventTime ts status) (.eventStatus status)
  | firstWord (maxWords : Int) (left drained : Nat) (text : List Char) (asFrame : Bool) :
      Follows (.drainCount maxWords asFrame) (.drainWords left text drained asFrame)
  | nextWord (left drained left' drained' : Nat) (text text' : List Char) (asFrame : Bool) :
      Follows (.drainWords left text drained asFrame) (.drainWords left' text' drained' asFrame)

theorem drainNext_task {left drained : Nat} {text : List Char} {asFrame : Bool} {next : Task}
    (h : (drainNext left text drained asFrame).1 = some next) :
    next = .drainWords left text drained asFrame := by
  unfold drainNext at h
  split at h
  · cases h
  · exact (Option.some.inj h).symm

theorem taskAnswered_follows {p : Params} {tk next : Task} {a : Response}
    (h : (taskAnswered p tk a).1 = some next) : tk.Follows next := by
  cases tk with
  | command f => cases h
  | eventTime ts status => exact Option.some.inj h ▸ .status ts status
  | eventStatus status => cases h
  | drainCount maxWords asFrame =>
    match a with
    | .ok (v :: _) => exact drainNext_task h ▸ .firstWord _ _ _ _ _
    | .ok [] | .errNoData | .fatal code => cases h
  | drainWords left text drained asFrame =>
    match a with
    | .ok (w :: _) => exact drainNext_task h ▸ .nextWord _ _ _ _ _ _ _
    | .ok [] | .errNoData | .fatal code => cases h
  | count =>
    match a with
    | .ok (v :: _) | .ok [] | .errNoData | .fatal code => cases h

theorem Task.Follows.writes_eq {tk next : Task} (h : tk.Follows next) :
    next.writes = tk.writes := by
  cases h <;> rfl

theorem Task.Follows.onlyReads_eq {tk next : Task} (h : tk.Follows next) :
    next.onlyReads = tk.onlyReads := by
  cases h <;> rfl

theorem taskFrame_writes (tk : Task) : (opField (taskFrame tk).cw == 0x2#4) = tk.writes := by
  cases tk <;> simp [taskFrame, Task.writes, putFrame, encode]

theorem taskFrame_onlyReads (tk : Task) : frameOnlyReads (taskFrame tk) = tk.onlyReads := by
  cases tk <;> simp [taskFrame, Task.onlyReads, frameOnlyReads, putFrame, encode]

theorem jobTask_writes (s : State) (j : Job) : (jobTask s j).writes = j.writes := by
  cases j <;> rfl

theorem jobTask_onlyReads (s : State) (j : Job) : (jobTask s j).onlyReads = j.onlyReads := by
  cases j <;> rfl

/-- Every frame but a PUT. -/
def FrameKind.notPut : FrameKind where
  frame f := !(opField f.cw == 0x2#4)
  task tk := !tk.writes
  job j := !j.writes
  frame_of_task tk h := by rwa [taskFrame_writes]
  task_of_job s j h := by rwa [jobTask_writes]
  task_of_answer _ _ _ _ e h := by rwa [(taskAnswered_follows e).writes_eq]

/-- GET and OCC. -/
def FrameKind.reading : FrameKind where
  frame := frameOnlyReads
  task := Task.onlyReads
  job := Job.onlyReads
  frame_of_task tk h := by rwa [taskFrame_onlyReads]
  task_of_job s j h := by rwa [jobTask_onlyReads]
  task_of_answer _ _ _ _ e h := by rwa [(taskAnswered_follows e).onlyReads_eq]

theorem FrameKind.confines_notPut_iff (r : Requester) :
    FrameKind.notPut.Confines r ↔ r.writes = false := by
  rw [FrameKind.Confines, Requester.writes, Bool.or_eq_false_iff, Bool.or_eq_false_iff, and_assoc]
  refine and_congr ?_ (and_congr ?_ ?_)
  · simp [FrameKind.notPut]
  · cases r.task <;> simp [FrameKind.notPut]
  · cases r.port <;> simp [FrameKind.notPut]

theorem FrameKind.confines_reading_iff (r : Requester) :
    FrameKind.reading.Confines r ↔ r.onlyReads = true := by
  rw [FrameKind.Confines, Requester.onlyReads, Bool.and_eq_true, Bool.and_eq_true, and_assoc]
  refine and_congr ?_ (and_congr ?_ ?_)
  · simp [FrameKind.reading]
  · cases r.task <;> simp [FrameKind.reading]
  · cases r.port <;> simp [FrameKind.reading]

/-! ## One producer, and consumers that only read -/

/-- Settles O49: a requester that may send a PUT after a step might have sent one before it. -/
theorem singleProducerIsKept : Obligations.SingleProducerIsKept := by
  intro s t single h
  have wrote {j : Nat} {q : Requester} (hq : t.requesters[j]? = some q) (writes : q.writes = true) :
      ∃ r, s.requesters[j]? = some r ∧ r.writes = true := by
    obtain ⟨r, hr, confines⟩ := step_confines (kind := .notPut) h hq
    rw [FrameKind.confines_notPut_iff, FrameKind.confines_notPut_iff] at confines
    exact ⟨r, hr, by_contra fun none => by simp [confines (by simpa using none)] at writes⟩
  intro j k q q' hj hk hq hq'
  obtain ⟨r, hr, writes⟩ := wrote hj hq
  obtain ⟨r', hr', writes'⟩ := wrote hk hq'
  exact single j k r r' hr hr' writes writes'

/-- Settles O50: a requester keeps to the frames it was confined to. -/
theorem consumersOnlyReadIsKept : Obligations.ConsumersOnlyReadIsKept := by
  intro s t producer readers h k q hq consumer
  obtain ⟨r, hr, confines⟩ := step_confines (kind := .reading) h hq
  rw [FrameKind.confines_reading_iff, FrameKind.confines_reading_iff] at confines
  exact confines (readers k r hr consumer)

end Sys2Proof.Machine

/-! # The canonical form of storage, from any state -/

namespace Sys2Proof.Machine

theorem memWrite_wf {n a : Nat} {m m' : Memory} {v : Byte} (h : memWrite n m a v = some m')
    (wf : Memory.wf m) : Memory.wf m' := by
  obtain ⟨-, rfl⟩ : a < n ∧ Memory.write m a v = m' := by simpa [memWrite] using h
  exact Memory.write_wf m a v wf

/-- PUT's copy loop keeps the canonical form from any pointer: where the pointer is outside the ring,
the loop stops instead of storing. -/
theorem copyIn_wf {n ii e : Nat} {m m' : Memory} {bs : List Byte}
    (copy : copyIn n m ii bs = some (m', e)) (wf : Memory.wf m) : Memory.wf m' := by
  induction bs generalizing m ii with
  | nil =>
    obtain ⟨rfl, -⟩ : m = m' ∧ ii = e := by simpa [copyIn] using copy
    exact wf
  | cons b bs ih =>
    unfold copyIn at copy
    split at copy
    · cases copy
    · rename_i written
      exact ih copy (memWrite_wf written wf)

/-- Of the five things a command can do, only PUT's copy loop writes storage. -/
theorem ExecResult.storage_wf {s t : State} {i : Instr} (h : ExecResult s t i)
    (wf : Memory.wf s.storage) : Memory.wf t.storage := by
  cases h with
  | answered i a h => exact h ▸ wf
  | raised i c nf h => exact h ▸ wf
  | initialised nf nr h => exact h ▸ wf
  | written ws m ii nf ne le copy h => exact h ▸ copyIn_wf copy wf
  | read wc bytes oi nf r pos le enough copy h => exact h ▸ wf

/-- Settles O6: reset lists nothing, and a command writes storage by PUT's copy loop alone. -/
theorem stepKeepsStorageForm : Obligations.StepKeepsStorageForm := fun _ _ wf h =>
  step_keeps (P := fun u => Memory.wf u.storage) (fun same wf => same.storage ▸ wf)
    (fun _ => List.Pairwise.nil) ExecResult.storage_wf h wf

end Sys2Proof.Machine
